-- ==== Sys2Proof/Word.lean ====
section
/-! DEFINITION. The words of the peripheral core and the small closed sets its operations are written with
(00_scope.md R7, R14). -/

namespace Sys2Proof

/-- A register value or an address: 32 bits (00_scope.md R14). -/
abbrev Word := BitVec 32

/-- A byte of memory, of the receive FIFO or of the serial line. -/
abbrev Byte := BitVec 8

/-- A time, a counter value, an alarm target: 64 bits unsigned (00_scope.md R14). -/
abbrev Time := BitVec 64

/-- The two processor cores that issue bus transactions (00_scope.md R7 NUM_CORES, R10). -/
inductive CoreId where
  | core0
  | core1
  deriving DecidableEq, Repr

/-- The direction of a bus transaction (30_encoding.md R120). -/
inductive Dir where
  | read
  | write
  deriving DecidableEq, Repr

/-- The three widths a transaction may have (20_memory.md R94, R96). -/
inductive BusWidth where
  | byte
  | half
  | word
  deriving DecidableEq, Repr

/-- The device an access decodes to, with the instance for a UART (20_memory.md R83, 30_encoding.md R122). -/
inductive DevPort where
  | uart (u : Nat)
  | gpio
  | timer
  deriving DecidableEq, Repr

/-- FIFO_CAPACITY (00_scope.md R7). -/
abbrev fifoCapacity : Nat := 32

/-- NUM_PINS (00_scope.md R7). -/
abbrev numPins : Nat := 30

/-- WINDOW_SIZE (00_scope.md R7): each device window and each stub window is 4 KiB. -/
abbrev windowSize : Nat := 0x1000

end Sys2Proof
end

