-- ==== Sys2Proof/Machine/Operands.lean ====
section
/-! DEFINITION. Operand assembly (30_encoding.md R124): indices taken from a register offset, the parts of the write data each
register stores, and the bytes of a memory access (20_memory.md R91, R92). -/

namespace Sys2Proof.Machine

/-- The direction bit of a transaction (30_encoding.md R120). -/
def bitOfDir : Dir → BitVec 1
  | .read => 0
  | .write => 1

/-- The selector `dir << 12 | off` (30_encoding.md R122). -/
def selector (dir : Dir) (off : BitVec 12) : BitVec 13 := (bitOfDir dir).setWidth 13 <<< 12 ||| off.setWidth 13

/-- The offset field of a selector. -/
def selOffset (sel : BitVec 13) : BitVec 12 := sel.extractLsb' 0 12

/-- The direction bit of a selector. -/
def selDir (sel : BitVec 13) : Dir := if sel.getLsbD 12 then .write else .read

/-- The pin index `off[11:3]` of GPIOp_STATUS and GPIOp_CTRL, before its range condition. -/
def pinNumber (off : BitVec 12) : Nat := (off.extractLsb' 3 9).toNat

/-- The pin of an offset whose pin index is at most 29 (the rows' range condition). -/
def pinOf (off : BitVec 12) : Fin 30 := ⟨pinNumber off % 30, Nat.mod_lt _ (by decide)⟩

/-- The register index `off[3:2]` of INTRr, INTEr, INTSr and ALARMk. -/
def regOf (off : BitVec 12) : Fin 4 := ⟨(off.extractLsb' 2 2).toNat, (off.extractLsb' 2 2).isLt⟩

/-- INTR_MASK[r] (10_state.md R51). -/
def intrMask (r : Fin 4) : Word := if r = 3 then 0x00FFFFFF else 0xFFFFFFFF

/-- The stored bits of UARTCR (10_state.md R33, R37). -/
abbrev crMask : BitVec 16 := 0xFF87

/-- `v[n-1:0]`, the low bits of the write data that a register of width `n` stores. -/
def lowBits (n : Nat) (v : Word) : BitVec n := v.extractLsb' 0 n

/-- A stored field read as a register: zero-extended to 32 bits (00_scope.md R14). -/
def zext32 {n : Nat} (x : BitVec n) : Word := x.setWidth 32

/-- The high word of a 64-bit value, `t[63:32]`. -/
def hiWord (t : Time) : Word := t.extractLsb' 32 32

/-- The low word of a 64-bit value, `t[31:0]`. -/
def loWord (t : Time) : Word := t.extractLsb' 0 32

/-- How many bytes a width takes. -/
def widthBytes : BusWidth → Nat
  | .byte => 1
  | .half => 2
  | .word => 4

/-- The low `n` bytes of `v`, the least significant first (20_memory.md R92). -/
def bytesLE : Nat → Word → List Byte
  | 0, _ => []
  | n + 1, v => v.extractLsb' 0 8 :: bytesLE n (v >>> 8)

/-- The 32-bit value of bytes given least significant first, zero-extended (20_memory.md R91). -/
def wordOfBytesLE : List Byte → Word
  | [] => 0
  | b :: bs => wordOfBytesLE bs <<< 8 ||| b.setWidth 32

/-- The core a master bit names (30_encoding.md R120). -/
def coreOfBit (b : BitVec 1) : CoreId := if b = 0 then .core0 else .core1

/-- The master bit of a core. -/
def bitOfCore : CoreId → BitVec 1
  | .core0 => 0
  | .core1 => 1

end Sys2Proof.Machine
end

