-- ==== Sys2Proof/Config.lean ====
section
/-! DEFINITION. What the composing system fixes (00_scope.md R8), its checks (R9), and the free values the spec leaves open. -/

namespace Sys2Proof

/-- TIMER_LATCH_SCOPE (00_scope.md R8). -/
inductive LatchScope where
  | shared
  | perCore
  deriving DecidableEq, Repr

/-- The set of controllers an interrupt line is wired to (60_exceptions.md R410). -/
structure CoreSet where
  core0 : Bool
  core1 : Bool
  deriving DecidableEq, Repr

/-- The contents of a read-only region (00_scope.md R8 ROM_IMAGE, XIP_IMAGE; log entry 7): the bytes the composing system supplies, or
an image of a known length whose bytes are left open, one for each number `id`. -/
inductive Image where
  | given (bytes : List Byte)
  | unknown (size id : Nat)
  deriving DecidableEq, Repr

/-- The configuration parameters of 00_scope.md R8 and 60_exceptions.md R410. UART_COUNT is the length of `uartBase`. -/
structure Config where
  uartBase : List Nat
  gpioBase : Nat
  timerBase : Nat
  romBase : Nat
  romSize : Nat
  /-- ROM_IMAGE. -/
  romImage : Image
  xipBase : Nat
  xipSize : Nat
  /-- XIP_IMAGE. -/
  xipImage : Image
  sramBase : Nat
  sramSize : Nat
  /-- STUB_WINDOWS: base and size of each unimplemented peripheral. -/
  stubWindows : List (Nat × Nat)
  latchScope : LatchScope
  /-- IRQ_WIRING of each UART's line. -/
  uartWiring : List CoreSet
  /-- IRQ_WIRING of each timer line. -/
  timerWiring : Vector CoreSet 4
  deriving DecidableEq, Repr

/-- The defaults of 00_scope.md R8 and 60_exceptions.md R410 (log entry 8). R8 leaves the two images open (log entry 7). -/
def Config.default : Config where
  uartBase := [0x40034000, 0x40038000]
  gpioBase := 0x40014000
  timerBase := 0x40054000
  romBase := 0x00000000
  romSize := 0x00004000
  romImage := .unknown 0x00004000 0
  xipBase := 0x10000000
  xipSize := 0x01000000
  xipImage := .unknown 0x01000000 1
  sramBase := 0x20000000
  sramSize := 0x00042000
  stubWindows := [(0x50000000, 0x1000), (0x50200000, 0x1000), (0x50300000, 0x1000)]
  latchScope := .shared
  uartWiring := [⟨true, true⟩, ⟨true, true⟩]
  timerWiring := Vector.replicate 4 ⟨true, true⟩

/-- UART_COUNT (00_scope.md R8). -/
def Config.uartCount (cfg : Config) : Nat := cfg.uartBase.length

/-- The value `draw()` gives the n-th time (00_scope.md R16): under no law. A free value (log entry 4). -/
opaque Config.draw : Nat → Word

/-- SRAM at power-on, by offset: each byte is a draw (10_state.md R71). A free value (log entry 5). -/
opaque Config.sramPowerOn : Nat → Byte

/-- The bytes of an image that is left open, by the image's number and the offset (00_scope.md R8). A free value (log entry 7). -/
opaque Config.unknownByte : Nat → Nat → Byte

/-- How many bytes an image has. -/
def Image.length : Image → Nat
  | .given bytes => bytes.length
  | .unknown size _ => size

/-- The byte of an image at an offset. Past the end of the bytes given, where no composition that passes the checks ever reads, it is
a free value too. -/
def Image.byte : Image → Nat → Byte
  | .given bytes, off => bytes.getD off (Config.unknownByte 0 off)
  | .unknown _ id, off => Config.unknownByte id off

/-- The memory regions (20_memory.md R81). -/
inductive MemKind where
  | rom
  | xip
  | sram
  deriving DecidableEq, Repr

/-- What an address region holds (20_memory.md R81). -/
inductive RegionKind where
  | mem (m : MemKind)
  | device (port : DevPort)
  | stub
  deriving DecidableEq, Repr

/-- One region of the address map (20_memory.md R81). -/
structure Region where
  base : Nat
  size : Nat
  kind : RegionKind
  deriving DecidableEq, Repr

/-- The UART windows, in the order of the instances (20_memory.md R81, R87). -/
def Config.uartRegions (cfg : Config) : List Region :=
  cfg.uartBase.zipIdx.map fun bu => ⟨bu.1, windowSize, .device (.uart bu.2)⟩

/-- The regions of 20_memory.md R81, in its order. -/
def Config.regions (cfg : Config) : List Region :=
  [⟨cfg.romBase, cfg.romSize, .mem .rom⟩, ⟨cfg.xipBase, cfg.xipSize, .mem .xip⟩, ⟨cfg.sramBase, cfg.sramSize, .mem .sram⟩]
    ++ cfg.uartRegions
    ++ [⟨cfg.gpioBase, windowSize, .device .gpio⟩, ⟨cfg.timerBase, windowSize, .device .timer⟩]
    ++ cfg.stubWindows.map fun bs => ⟨bs.1, bs.2, .stub⟩

/-- Two regions share no address. -/
def Region.disjoint (a b : Region) : Bool :=
  decide (a.base + a.size ≤ b.base) || decide (b.base + b.size ≤ a.base)

/-- Checks (2) and (3) of 00_scope.md R9 for one region. -/
def Region.shapeOk (r : Region) : Bool :=
  match r.kind with
  | .mem _ => decide (0 < r.size) && decide (r.size % 4 = 0) && decide (r.base % 4 = 0)
  | .device _ | .stub => decide (r.size = windowSize) && decide (r.base % windowSize = 0)

/-- Check (4) of 00_scope.md R9 for one region. -/
def Region.inAddressSpace (r : Region) : Bool := decide (r.base + r.size ≤ 2 ^ 32)

/-- Every pair of regions, each pair once, is disjoint. -/
def Config.pairwiseDisjoint : List Region → Bool
  | [] => true
  | r :: rest => rest.all r.disjoint && Config.pairwiseDisjoint rest

/-- Check (5) of 00_scope.md R9: each image is as long as its region. -/
def Config.imagesOk (cfg : Config) : Bool :=
  decide (cfg.romImage.length = cfg.romSize) && decide (cfg.xipImage.length = cfg.xipSize)

/-- The composition checks of 00_scope.md R9, with UART_COUNT at least 1 (92_eei_decisions.md D6) and one wiring entry for each
UART line (log entry 18). -/
def Config.ok (cfg : Config) : Bool :=
  Config.pairwiseDisjoint cfg.regions
    && cfg.regions.all Region.shapeOk
    && cfg.regions.all Region.inAddressSpace
    && cfg.imagesOk
    && decide (1 ≤ cfg.uartCount)
    && decide (cfg.uartWiring.length = cfg.uartCount)

end Sys2Proof
end

