-- ==== Sys2Proof/Machine/Devices.lean ====
section
/-! DEFINITION. The register banks of the devices (10_state.md R33, R50, R60), their reset columns, and the snapshot record of
70_reset_and_hazards.md R450. -/

namespace Sys2Proof.Machine

/-- One UART instance (10_state.md R33). `fifoLen` is 0..32 in every state a run reaches (R34). -/
structure Uart where
  fifoBuf : Vector Byte 32
  fifoRd : BitVec 5
  fifoWr : BitVec 5
  fifoLen : Nat
  cr : BitVec 16
  lcrH : BitVec 8
  ibrd : BitVec 16
  fbrd : BitVec 6
  ilpr : BitVec 8
  ifls : BitVec 6
  imsc : BitVec 11
  ris : BitVec 11
  dmacr : BitVec 3
  deriving DecidableEq, Repr

/-- The reset column of 10_state.md R33. -/
def Uart.reset : Uart where
  fifoBuf := Vector.replicate 32 0
  fifoRd := 0
  fifoWr := 0
  fifoLen := 0
  cr := 0x0300
  lcrH := 0
  ibrd := 0
  fbrd := 0
  ilpr := 0
  ifls := 0x12
  imsc := 0
  ris := 0
  dmacr := 0

/-- The GPIO device (10_state.md R50). `inte0` and `inte1` are `inte[0]` and `inte[1]`. -/
structure Gpio where
  funcsel : Vector (BitVec 5) 30
  level : Vector Bool 30
  intr : Vector Word 4
  inte0 : Vector Word 4
  inte1 : Vector Word 4
  deriving DecidableEq, Repr

/-- The reset column of 10_state.md R50. -/
def Gpio.reset : Gpio where
  funcsel := Vector.replicate 30 0x1F
  level := Vector.replicate 30 false
  intr := Vector.replicate 4 0
  inte0 := Vector.replicate 4 0
  inte1 := Vector.replicate 4 0

/-- The timer device (10_state.md R60). Slot 0 of `latch` is the one latch when TIMER_LATCH_SCOPE is shared; when it is per_core,
slot c is `latch[c]` (log entry 14). -/
structure Timer where
  base : Time
  paused : Bool
  frozen : Time
  latch : Vector Time 2
  target : Vector Time 4
  armed : BitVec 4
  intr : BitVec 4
  inte : BitVec 4
  deriving DecidableEq, Repr

/-- The reset column of 10_state.md R60, with base taken from the clock (70_reset_and_hazards.md R440). -/
def Timer.reset (clockNow : Time) : Timer where
  base := clockNow
  paused := false
  frozen := 0
  latch := Vector.replicate 2 0
  target := Vector.replicate 4 0
  armed := 0
  intr := 0
  inte := 0

/-- The snapshot record of 70_reset_and_hazards.md R450: every UART and GPIO field, and the timer's with the counter value in place
of base and frozen. -/
structure Snapshot where
  uarts : List Uart
  gpio : Gpio
  paused : Bool
  latch : Vector Time 2
  target : Vector Time 4
  armed : BitVec 4
  intr : BitVec 4
  inte : BitVec 4
  counter : Time
  deriving DecidableEq, Repr

end Sys2Proof.Machine
end

