-- ==== Sys2Proof/Syntax.lean ====
section
/-! DEFINITION. The operations of the peripheral core, one constructor for each row of spec/opcode_table.json, and the records the
agents hand them over in: TXN, DEVSEL and EVT (30_encoding.md R120, R122, R123). -/

namespace Sys2Proof

/-- The operations (00_scope.md R3). `c` is the issuing core, `u` the UART instance, `p` a pin, `r` a GPIO interrupt register,
`k` an alarm, `v` the write data. -/
inductive Instr where
  -- Bus transactions (41_bus.md)
  /-- BUS.R8 (R160). -/
  | busR8 (c : CoreId) (addr : Word)
  /-- BUS.R16 (R161). -/
  | busR16 (c : CoreId) (addr : Word)
  /-- BUS.R32 (R162). -/
  | busR32 (c : CoreId) (addr : Word)
  /-- BUS.W8 (R163). -/
  | busW8 (c : CoreId) (addr : Word) (v : Word)
  /-- BUS.W16 (R164). -/
  | busW16 (c : CoreId) (addr : Word) (v : Word)
  /-- BUS.W32 (R165). -/
  | busW32 (c : CoreId) (addr : Word) (v : Word)
  -- UART register operations (42_uart.md)
  /-- UART.DR.R (R200). -/
  | uartDrR (c : CoreId) (u : Nat)
  /-- UART.DR.W (R201). -/
  | uartDrW (c : CoreId) (u : Nat) (v : Word)
  /-- UART.RSR.R (R202). -/
  | uartRsrR (c : CoreId) (u : Nat)
  /-- UART.ECR.W (R204). -/
  | uartEcrW (c : CoreId) (u : Nat) (v : Word)
  /-- UART.FR.R (R205). -/
  | uartFrR (c : CoreId) (u : Nat)
  /-- UART.FR.W (R206). -/
  | uartFrW (c : CoreId) (u : Nat) (v : Word)
  /-- UART.ILPR.R (R207). -/
  | uartIlprR (c : CoreId) (u : Nat)
  /-- UART.ILPR.W (R208). -/
  | uartIlprW (c : CoreId) (u : Nat) (v : Word)
  /-- UART.IBRD.R (R209). -/
  | uartIbrdR (c : CoreId) (u : Nat)
  /-- UART.IBRD.W (R210). -/
  | uartIbrdW (c : CoreId) (u : Nat) (v : Word)
  /-- UART.FBRD.R (R211). -/
  | uartFbrdR (c : CoreId) (u : Nat)
  /-- UART.FBRD.W (R212). -/
  | uartFbrdW (c : CoreId) (u : Nat) (v : Word)
  /-- UART.LCR_H.R (R213). -/
  | uartLcrhR (c : CoreId) (u : Nat)
  /-- UART.LCR_H.W (R214). -/
  | uartLcrhW (c : CoreId) (u : Nat) (v : Word)
  /-- UART.CR.R (R215). -/
  | uartCrR (c : CoreId) (u : Nat)
  /-- UART.CR.W (R216). -/
  | uartCrW (c : CoreId) (u : Nat) (v : Word)
  /-- UART.IFLS.R (R217). -/
  | uartIflsR (c : CoreId) (u : Nat)
  /-- UART.IFLS.W (R218). -/
  | uartIflsW (c : CoreId) (u : Nat) (v : Word)
  /-- UART.IMSC.R (R219). -/
  | uartImscR (c : CoreId) (u : Nat)
  /-- UART.IMSC.W (R221). -/
  | uartImscW (c : CoreId) (u : Nat) (v : Word)
  /-- UART.RIS.R (R222). -/
  | uartRisR (c : CoreId) (u : Nat)
  /-- UART.RIS.W (R223). -/
  | uartRisW (c : CoreId) (u : Nat) (v : Word)
  /-- UART.MIS.R (R224). -/
  | uartMisR (c : CoreId) (u : Nat)
  /-- UART.MIS.W (R225). -/
  | uartMisW (c : CoreId) (u : Nat) (v : Word)
  /-- UART.ICR.R (R226). -/
  | uartIcrR (c : CoreId) (u : Nat)
  /-- UART.ICR.W (R227). -/
  | uartIcrW (c : CoreId) (u : Nat) (v : Word)
  /-- UART.DMACR.R (R228). -/
  | uartDmacrR (c : CoreId) (u : Nat)
  /-- UART.DMACR.W (R229). -/
  | uartDmacrW (c : CoreId) (u : Nat) (v : Word)
  /-- UART.RESERVED (R230). -/
  | uartReserved (c : CoreId) (u : Nat) (dir : Dir) (off : BitVec 12) (v : Word)
  -- GPIO register operations (43_gpio.md)
  /-- GPIO.STATUS.R (R260). -/
  | gpioStatusR (c : CoreId) (p : Fin 30)
  /-- GPIO.STATUS.W (R261). -/
  | gpioStatusW (c : CoreId) (p : Fin 30) (v : Word)
  /-- GPIO.CTRL.R (R262). -/
  | gpioCtrlR (c : CoreId) (p : Fin 30)
  /-- GPIO.CTRL.W (R263). -/
  | gpioCtrlW (c : CoreId) (p : Fin 30) (v : Word)
  /-- GPIO.INTR.R (R264). -/
  | gpioIntrR (c : CoreId) (r : Fin 4)
  /-- GPIO.INTR.W (R265). -/
  | gpioIntrW (c : CoreId) (r : Fin 4) (v : Word)
  /-- GPIO.P0INTE.R (R266). -/
  | gpioP0inteR (c : CoreId) (r : Fin 4)
  /-- GPIO.P0INTE.W (R267). -/
  | gpioP0inteW (c : CoreId) (r : Fin 4) (v : Word)
  /-- GPIO.P0INTS.R (R268). -/
  | gpioP0intsR (c : CoreId) (r : Fin 4)
  /-- GPIO.P0INTS.W (R269). -/
  | gpioP0intsW (c : CoreId) (r : Fin 4) (v : Word)
  /-- GPIO.P1INTE.R (R270). -/
  | gpioP1inteR (c : CoreId) (r : Fin 4)
  /-- GPIO.P1INTE.W (R271). -/
  | gpioP1inteW (c : CoreId) (r : Fin 4) (v : Word)
  /-- GPIO.P1INTS.R (R272). -/
  | gpioP1intsR (c : CoreId) (r : Fin 4)
  /-- GPIO.P1INTS.W (R273). -/
  | gpioP1intsW (c : CoreId) (r : Fin 4) (v : Word)
  /-- GPIO.RESERVED (R274). -/
  | gpioReserved (c : CoreId) (dir : Dir) (off : BitVec 12) (v : Word)
  -- Timer register operations (44_timer.md)
  /-- TIMER.TIMEHW.R (R311). -/
  | timerTimehwR (c : CoreId)
  /-- TIMER.TIMEHW.W (R312). -/
  | timerTimehwW (c : CoreId) (v : Word)
  /-- TIMER.TIMELW.R (R313). -/
  | timerTimelwR (c : CoreId)
  /-- TIMER.TIMELW.W (R314). -/
  | timerTimelwW (c : CoreId) (v : Word)
  /-- TIMER.TIMEHR.R (R316). -/
  | timerTimehrR (c : CoreId)
  /-- TIMER.TIMEHR.W (R317). -/
  | timerTimehrW (c : CoreId) (v : Word)
  /-- TIMER.TIMELR.R (R318). -/
  | timerTimelrR (c : CoreId)
  /-- TIMER.TIMELR.W (R319). -/
  | timerTimelrW (c : CoreId) (v : Word)
  /-- TIMER.ALARM.R (R320). -/
  | timerAlarmR (c : CoreId) (k : Fin 4)
  /-- TIMER.ALARM.W (R321). -/
  | timerAlarmW (c : CoreId) (k : Fin 4) (v : Word)
  /-- TIMER.ARMED.R (R322). -/
  | timerArmedR (c : CoreId)
  /-- TIMER.ARMED.W (R323). -/
  | timerArmedW (c : CoreId) (v : Word)
  /-- TIMER.RAWH.R (R324). -/
  | timerRawhR (c : CoreId)
  /-- TIMER.RAWH.W (R325). -/
  | timerRawhW (c : CoreId) (v : Word)
  /-- TIMER.RAWL.R (R326). -/
  | timerRawlR (c : CoreId)
  /-- TIMER.RAWL.W (R327). -/
  | timerRawlW (c : CoreId) (v : Word)
  /-- TIMER.PAUSE.R (R328). -/
  | timerPauseR (c : CoreId)
  /-- TIMER.PAUSE.W (R329). -/
  | timerPauseW (c : CoreId) (v : Word)
  /-- TIMER.INTR.R (R330). -/
  | timerIntrR (c : CoreId)
  /-- TIMER.INTR.W (R331). -/
  | timerIntrW (c : CoreId) (v : Word)
  /-- TIMER.INTE.R (R332). -/
  | timerInteR (c : CoreId)
  /-- TIMER.INTE.W (R333). -/
  | timerInteW (c : CoreId) (v : Word)
  /-- TIMER.INTS.R (R334). -/
  | timerIntsR (c : CoreId)
  /-- TIMER.INTS.W (R335). -/
  | timerIntsW (c : CoreId) (v : Word)
  /-- TIMER.RESERVED (R336). -/
  | timerReserved (c : CoreId) (dir : Dir) (off : BitVec 12) (v : Word)
  -- External events (30_encoding.md R123)
  /-- UART.RX (R231). -/
  | uartRx (u : Nat) (bytes : List Byte)
  /-- UART.CAPACITY (R232). -/
  | uartCapacity (u : Nat)
  /-- GPIO.REPORT (R280). -/
  | gpioReport (p : Fin 30) (lvl : Bool)
  /-- CLOCK.ADVANCE (R340). -/
  | clockAdvance (t : Time)
  /-- HOST.RESET (R440). -/
  | hostReset
  /-- HOST.SNAPSHOT (R450). -/
  | hostSnapshot
  /-- HOST.RESTORE (R451). -/
  | hostRestore (snap : Machine.Snapshot)
  deriving DecidableEq, Repr

/-- The bus transaction record TXN (30_encoding.md R120). -/
structure Txn where
  master : BitVec 1
  dir : BitVec 1
  wcode : BitVec 2
  addr : Word
  wdata : Word
  deriving DecidableEq, Repr

/-- A device register access: the device the address decoded to, the 13-bit selector, the issuing core and the data
(30_encoding.md R122; log entry 9). -/
structure DevSel where
  port : DevPort
  sel : BitVec 13
  master : BitVec 1
  wdata : Word
  deriving DecidableEq, Repr

/-- A UART's fields in a snapshot as the host hands them over, before the widths are checked (70_reset_and_hazards.md R451). -/
structure RawUart where
  fifoBuf : List Nat
  fifoRd : Nat
  fifoWr : Nat
  fifoLen : Nat
  cr : Nat
  lcrH : Nat
  ibrd : Nat
  fbrd : Nat
  ilpr : Nat
  ifls : Nat
  imsc : Nat
  ris : Nat
  dmacr : Nat
  deriving DecidableEq, Repr

/-- A snapshot record as the host hands it over, before the widths are checked (70_reset_and_hazards.md R451). -/
structure RawSnapshot where
  uarts : List RawUart
  funcsel : List Nat
  level : List Nat
  gpioIntr : List Nat
  inte0 : List Nat
  inte1 : List Nat
  paused : Nat
  latch : List Nat
  target : List Nat
  armed : Nat
  timerIntr : Nat
  timerInte : Nat
  counter : Nat
  deriving DecidableEq, Repr

/-- The external event record EVT: the 4-bit code and the operands; each code reads those its row names
(30_encoding.md R123). -/
structure Evt where
  code : BitVec 4
  u : Nat
  bytes : List Byte
  pin : Nat
  lvl : BitVec 1
  t : Time
  snap : RawSnapshot
  deriving DecidableEq, Repr

/-- An operation as an agent issues it. -/
inductive RawOp where
  | txn (t : Txn)
  | devsel (d : DevSel)
  | evt (e : Evt)
  deriving DecidableEq, Repr

end Sys2Proof
end

