-- ==== Sys2Proof/WellFormed.lean ====
section
/-! DEFINITION. What makes an operation well formed: the checks of 30_encoding.md R126 and 70_reset_and_hazards.md R451 that need no
state, and that a RESERVED row stands only for offsets no register has (30_encoding.md R125). -/

namespace Sys2Proof

/-- The offsets of the UART register map (10_state.md R36). -/
def uartRegisterOffset (off : BitVec 12) : Bool :=
  off ∈ [0x000#12, 0x004#12, 0x018#12, 0x020#12, 0x024#12, 0x028#12, 0x02C#12, 0x030#12, 0x034#12, 0x038#12, 0x03C#12, 0x040#12,
    0x044#12, 0x048#12]

/-- The offsets of the GPIO register map (10_state.md R52): aligned, and not in 0x110..0x11C, 0x140..0x14C or 0x160..0xFFC. -/
def gpioRegisterOffset (off : BitVec 12) : Bool :=
  decide (off.toNat % 4 = 0)
    && (decide (off.toNat < 0x110) || (decide (0x120 ≤ off.toNat) && decide (off.toNat < 0x140))
      || (decide (0x150 ≤ off.toNat) && decide (off.toNat < 0x160)))

/-- The offsets of the timer register map (10_state.md R62): aligned, below 0x44, and neither 0x2C nor 0x3C. -/
def timerRegisterOffset (off : BitVec 12) : Bool :=
  decide (off.toNat % 4 = 0) && decide (off.toNat < 0x44) && !(off == 0x02C#12) && !(off == 0x03C#12)

/-- A read carries no data: its `wdata` is 0 (30_encoding.md R120). -/
def readDataZero (dir : Dir) (v : Word) : Bool :=
  match dir with
  | .read => v == 0
  | .write => true

/-- A UART's fields fit their widths: `fifo_len` is 0..32 (10_state.md R33; log entry 12). -/
def uartFits (U : Machine.Uart) : Bool := decide (U.fifoLen ≤ fifoCapacity)

/-- A GPIO register bank fits its widths: registers 3 have 24 bits (10_state.md R50). -/
def gpioFits (g : Machine.Gpio) : Bool :=
  g.intr[3] &&& ~~~(Machine.intrMask 3) == 0 && g.inte0[3] &&& ~~~(Machine.intrMask 3) == 0
    && g.inte1[3] &&& ~~~(Machine.intrMask 3) == 0

/-- The fields of a snapshot fit their widths (70_reset_and_hazards.md R451). -/
def snapshotFits (snap : Machine.Snapshot) : Bool := snap.uarts.all uartFits && gpioFits snap.gpio

/-- The checks on an operation that need no state. The other constructors' operands are bounded by their types. -/
def Instr.wellFormed : Instr → Bool
  | .uartReserved _ _ dir off v => !uartRegisterOffset off && readDataZero dir v
  | .gpioReserved _ dir off v => !gpioRegisterOffset off && readDataZero dir v
  | .timerReserved _ dir off v => !timerRegisterOffset off && readDataZero dir v
  | .uartRx _ bytes => !bytes.isEmpty
  | .hostRestore snap => snapshotFits snap
  | _ => true

end Sys2Proof
end

