-- ==== Sys2Proof/Decode.lean ====
section
/-! DEFINITION. Decoding an operation record (30_encoding.md R120 to R132), total, refusing ill-formed records by name (R126), and the
encoder beside it. -/

namespace Sys2Proof

open Machine

/-- Why a record is refused at the boundary: no step accepts it (30_encoding.md R126, 70_reset_and_hazards.md R451). Each is safe:
the spec itself refuses the input. -/
inductive DecodeError where
  /-- A transaction with `wcode = 11` (R126, 20_memory.md R96). -/
  | illegalWidth
  /-- An event code 0x0 or 0x8 to 0xF (R126). -/
  | illegalEventCode
  /-- A GPIO.REPORT with a pin above 29 (R126). -/
  | pinOutOfRange
  /-- A UART.RX with no bytes (R126). -/
  | emptyDelivery
  /-- A HOST.RESTORE whose record has a field that does not fit its width (70_reset_and_hazards.md R451). -/
  | snapshotMisfit
  deriving DecidableEq, Repr

/-- What a selector row builds its operation from. -/
structure SelArgs where
  c : CoreId
  u : Nat
  off : BitVec 12
  v : Word

/-- One `(match, mask)` row of the opcode table for a device, with its range condition (30_encoding.md R122, R125, R131). -/
structure SelRow where
  pat : BitVec 13
  mask : BitVec 13
  cond : BitVec 12 → Bool
  op : SelArgs → Instr

/-- The row applies to a selector: `sel & mask == match`, and its range condition holds. -/
def SelRow.applies (row : SelRow) (sel : BitVec 13) : Bool := sel &&& row.mask == row.pat && row.cond (selOffset sel)

/-- The UART rows (30_encoding.md R130), but for the catch-all. -/
def uartRows : List SelRow :=
  [⟨0x0000, 0x1FFF, fun _ => true, fun a => .uartDrR a.c a.u⟩,
   ⟨0x1000, 0x1FFF, fun _ => true, fun a => .uartDrW a.c a.u a.v⟩,
   ⟨0x0004, 0x1FFF, fun _ => true, fun a => .uartRsrR a.c a.u⟩,
   ⟨0x1004, 0x1FFF, fun _ => true, fun a => .uartEcrW a.c a.u a.v⟩,
   ⟨0x0018, 0x1FFF, fun _ => true, fun a => .uartFrR a.c a.u⟩,
   ⟨0x1018, 0x1FFF, fun _ => true, fun a => .uartFrW a.c a.u a.v⟩,
   ⟨0x0020, 0x1FFF, fun _ => true, fun a => .uartIlprR a.c a.u⟩,
   ⟨0x1020, 0x1FFF, fun _ => true, fun a => .uartIlprW a.c a.u a.v⟩,
   ⟨0x0024, 0x1FFF, fun _ => true, fun a => .uartIbrdR a.c a.u⟩,
   ⟨0x1024, 0x1FFF, fun _ => true, fun a => .uartIbrdW a.c a.u a.v⟩,
   ⟨0x0028, 0x1FFF, fun _ => true, fun a => .uartFbrdR a.c a.u⟩,
   ⟨0x1028, 0x1FFF, fun _ => true, fun a => .uartFbrdW a.c a.u a.v⟩,
   ⟨0x002C, 0x1FFF, fun _ => true, fun a => .uartLcrhR a.c a.u⟩,
   ⟨0x102C, 0x1FFF, fun _ => true, fun a => .uartLcrhW a.c a.u a.v⟩,
   ⟨0x0030, 0x1FFF, fun _ => true, fun a => .uartCrR a.c a.u⟩,
   ⟨0x1030, 0x1FFF, fun _ => true, fun a => .uartCrW a.c a.u a.v⟩,
   ⟨0x0034, 0x1FFF, fun _ => true, fun a => .uartIflsR a.c a.u⟩,
   ⟨0x1034, 0x1FFF, fun _ => true, fun a => .uartIflsW a.c a.u a.v⟩,
   ⟨0x0038, 0x1FFF, fun _ => true, fun a => .uartImscR a.c a.u⟩,
   ⟨0x1038, 0x1FFF, fun _ => true, fun a => .uartImscW a.c a.u a.v⟩,
   ⟨0x003C, 0x1FFF, fun _ => true, fun a => .uartRisR a.c a.u⟩,
   ⟨0x103C, 0x1FFF, fun _ => true, fun a => .uartRisW a.c a.u a.v⟩,
   ⟨0x0040, 0x1FFF, fun _ => true, fun a => .uartMisR a.c a.u⟩,
   ⟨0x1040, 0x1FFF, fun _ => true, fun a => .uartMisW a.c a.u a.v⟩,
   ⟨0x0044, 0x1FFF, fun _ => true, fun a => .uartIcrR a.c a.u⟩,
   ⟨0x1044, 0x1FFF, fun _ => true, fun a => .uartIcrW a.c a.u a.v⟩,
   ⟨0x0048, 0x1FFF, fun _ => true, fun a => .uartDmacrR a.c a.u⟩,
   ⟨0x1048, 0x1FFF, fun _ => true, fun a => .uartDmacrW a.c a.u a.v⟩]

/-- The GPIO rows (30_encoding.md R131), but for the catch-all. -/
def gpioRows : List SelRow :=
  [⟨0x0000, 0x1007, fun off => decide (pinNumber off ≤ 29), fun a => .gpioStatusR a.c (pinOf a.off)⟩,
   ⟨0x1000, 0x1007, fun off => decide (pinNumber off ≤ 29), fun a => .gpioStatusW a.c (pinOf a.off) a.v⟩,
   ⟨0x0004, 0x1007, fun off => decide (pinNumber off ≤ 29), fun a => .gpioCtrlR a.c (pinOf a.off)⟩,
   ⟨0x1004, 0x1007, fun off => decide (pinNumber off ≤ 29), fun a => .gpioCtrlW a.c (pinOf a.off) a.v⟩,
   ⟨0x00F0, 0x1FF3, fun _ => true, fun a => .gpioIntrR a.c (regOf a.off)⟩,
   ⟨0x10F0, 0x1FF3, fun _ => true, fun a => .gpioIntrW a.c (regOf a.off) a.v⟩,
   ⟨0x0100, 0x1FF3, fun _ => true, fun a => .gpioP0inteR a.c (regOf a.off)⟩,
   ⟨0x1100, 0x1FF3, fun _ => true, fun a => .gpioP0inteW a.c (regOf a.off) a.v⟩,
   ⟨0x0120, 0x1FF3, fun _ => true, fun a => .gpioP0intsR a.c (regOf a.off)⟩,
   ⟨0x1120, 0x1FF3, fun _ => true, fun a => .gpioP0intsW a.c (regOf a.off) a.v⟩,
   ⟨0x0130, 0x1FF3, fun _ => true, fun a => .gpioP1inteR a.c (regOf a.off)⟩,
   ⟨0x1130, 0x1FF3, fun _ => true, fun a => .gpioP1inteW a.c (regOf a.off) a.v⟩,
   ⟨0x0150, 0x1FF3, fun _ => true, fun a => .gpioP1intsR a.c (regOf a.off)⟩,
   ⟨0x1150, 0x1FF3, fun _ => true, fun a => .gpioP1intsW a.c (regOf a.off) a.v⟩]

/-- The timer rows (30_encoding.md R132), but for the catch-all. -/
def timerRows : List SelRow :=
  [⟨0x0000, 0x1FFF, fun _ => true, fun a => .timerTimehwR a.c⟩,
   ⟨0x1000, 0x1FFF, fun _ => true, fun a => .timerTimehwW a.c a.v⟩,
   ⟨0x0004, 0x1FFF, fun _ => true, fun a => .timerTimelwR a.c⟩,
   ⟨0x1004, 0x1FFF, fun _ => true, fun a => .timerTimelwW a.c a.v⟩,
   ⟨0x0008, 0x1FFF, fun _ => true, fun a => .timerTimehrR a.c⟩,
   ⟨0x1008, 0x1FFF, fun _ => true, fun a => .timerTimehrW a.c a.v⟩,
   ⟨0x000C, 0x1FFF, fun _ => true, fun a => .timerTimelrR a.c⟩,
   ⟨0x100C, 0x1FFF, fun _ => true, fun a => .timerTimelrW a.c a.v⟩,
   ⟨0x0010, 0x1FF3, fun _ => true, fun a => .timerAlarmR a.c (regOf a.off)⟩,
   ⟨0x1010, 0x1FF3, fun _ => true, fun a => .timerAlarmW a.c (regOf a.off) a.v⟩,
   ⟨0x0020, 0x1FFF, fun _ => true, fun a => .timerArmedR a.c⟩,
   ⟨0x1020, 0x1FFF, fun _ => true, fun a => .timerArmedW a.c a.v⟩,
   ⟨0x0024, 0x1FFF, fun _ => true, fun a => .timerRawhR a.c⟩,
   ⟨0x1024, 0x1FFF, fun _ => true, fun a => .timerRawhW a.c a.v⟩,
   ⟨0x0028, 0x1FFF, fun _ => true, fun a => .timerRawlR a.c⟩,
   ⟨0x1028, 0x1FFF, fun _ => true, fun a => .timerRawlW a.c a.v⟩,
   ⟨0x0030, 0x1FFF, fun _ => true, fun a => .timerPauseR a.c⟩,
   ⟨0x1030, 0x1FFF, fun _ => true, fun a => .timerPauseW a.c a.v⟩,
   ⟨0x0034, 0x1FFF, fun _ => true, fun a => .timerIntrR a.c⟩,
   ⟨0x1034, 0x1FFF, fun _ => true, fun a => .timerIntrW a.c a.v⟩,
   ⟨0x0038, 0x1FFF, fun _ => true, fun a => .timerInteR a.c⟩,
   ⟨0x1038, 0x1FFF, fun _ => true, fun a => .timerInteW a.c a.v⟩,
   ⟨0x0040, 0x1FFF, fun _ => true, fun a => .timerIntsR a.c⟩,
   ⟨0x1040, 0x1FFF, fun _ => true, fun a => .timerIntsW a.c a.v⟩]

/-- The rows of a device. -/
def selRows : DevPort → List SelRow
  | .uart _ => uartRows
  | .gpio => gpioRows
  | .timer => timerRows

/-- The UART instance of a port; the other devices have one instance. -/
def portIndex : DevPort → Nat
  | .uart u => u
  | _ => 0

/-- The catch-all row of a device, for every selector no other row takes (30_encoding.md R125, R127). A read carries no data. -/
def reservedRow (port : DevPort) (dir : Dir) (off : BitVec 12) (c : CoreId) (v : Word) : Instr :=
  let w := match dir with
    | .read => 0
    | .write => v
  match port with
  | .uart u => .uartReserved c u dir off w
  | .gpio => .gpioReserved c dir off w
  | .timer => .timerReserved c dir off w

/-- The operation a device selector names (30_encoding.md R122, R125). The rows of one device exclude each other
(Laws/Decode.lean: `uartRows_exclusive`, `timerRows_exclusive`, `gpioRows_exclusive`, `gpioRows_outside_pins`), so the order R125
tries them in makes no difference but for the catch-all, which comes last. -/
def decodeSel (port : DevPort) (sel : BitVec 13) (c : CoreId) (v : Word) : Instr :=
  match (selRows port).find? (·.applies sel) with
  | some row => row.op ⟨c, portIndex port, selOffset sel, v⟩
  | none => reservedRow port (selDir sel) (selOffset sel) c v

/-- The header `dir << 2 | wcode` of a transaction (30_encoding.md R121). -/
def Txn.hdr (t : Txn) : BitVec 3 := t.dir ++ t.wcode

/-- A bus transaction (30_encoding.md R121); the data of a read is ignored (R120). -/
def decodeTxn (t : Txn) : Except DecodeError Instr :=
  match t.hdr.toNat with
  | 0b000 => .ok (.busR8 (coreOfBit t.master) t.addr)
  | 0b001 => .ok (.busR16 (coreOfBit t.master) t.addr)
  | 0b010 => .ok (.busR32 (coreOfBit t.master) t.addr)
  | 0b100 => .ok (.busW8 (coreOfBit t.master) t.addr t.wdata)
  | 0b101 => .ok (.busW16 (coreOfBit t.master) t.addr t.wdata)
  | 0b110 => .ok (.busW32 (coreOfBit t.master) t.addr t.wdata)
  | _ => .error .illegalWidth

/-- A number that fits `w` bits, as a bit vector. -/
def fitNat (w n : Nat) : Option (BitVec w) := if n < 2 ^ w then some (BitVec.ofNat w n) else none

/-- A number that fits one bit, as a truth value. -/
def fitBool (n : Nat) : Option Bool := if n < 2 then some (decide (n = 1)) else none

/-- A list whose every entry fits. -/
def fitAll {α : Type} (f : Nat → Option α) : List Nat → Option (List α)
  | [] => some []
  | x :: xs => do
    let y ← f x
    let ys ← fitAll f xs
    pure (y :: ys)

/-- Exactly `n` entries, each of which fits. -/
def fitVec {α : Type} (f : Nat → Option α) (n : Nat) (xs : List Nat) : Option (Vector α n) := do
  let ys ← fitAll f xs
  if h : ys.length = n then some ⟨ys.toArray, by simp [h]⟩ else none

/-- A UART's snapshot fields at the widths of 10_state.md R33. -/
def fitUart (x : RawUart) : Option Uart := do
  let fifoBuf ← fitVec (fitNat 8) 32 x.fifoBuf
  let fifoRd ← fitNat 5 x.fifoRd
  let fifoWr ← fitNat 5 x.fifoWr
  let cr ← fitNat 16 x.cr
  let lcrH ← fitNat 8 x.lcrH
  let ibrd ← fitNat 16 x.ibrd
  let fbrd ← fitNat 6 x.fbrd
  let ilpr ← fitNat 8 x.ilpr
  let ifls ← fitNat 6 x.ifls
  let imsc ← fitNat 11 x.imsc
  let ris ← fitNat 11 x.ris
  let dmacr ← fitNat 3 x.dmacr
  pure ⟨fifoBuf, fifoRd, fifoWr, x.fifoLen, cr, lcrH, ibrd, fbrd, ilpr, ifls, imsc, ris, dmacr⟩

/-- Every UART of a snapshot. -/
def fitUarts : List RawUart → Option (List Uart)
  | [] => some []
  | x :: xs => do
    let U ← fitUart x
    let Us ← fitUarts xs
    pure (U :: Us)

/-- The GPIO fields of a snapshot at the widths of 10_state.md R50. -/
def fitGpio (x : RawSnapshot) : Option Gpio := do
  let funcsel ← fitVec (fitNat 5) 30 x.funcsel
  let level ← fitVec fitBool 30 x.level
  let intr ← fitVec (fitNat 32) 4 x.gpioIntr
  let inte0 ← fitVec (fitNat 32) 4 x.inte0
  let inte1 ← fitVec (fitNat 32) 4 x.inte1
  pure ⟨funcsel, level, intr, inte0, inte1⟩

/-- A snapshot record at the widths of 10_state.md R33, R50 and R60. -/
def fitFields (x : RawSnapshot) : Option Snapshot := do
  let uarts ← fitUarts x.uarts
  let gpio ← fitGpio x
  let paused ← fitBool x.paused
  let latch ← fitVec (fitNat 64) 2 x.latch
  let target ← fitVec (fitNat 64) 4 x.target
  let armed ← fitNat 4 x.armed
  let intr ← fitNat 4 x.timerIntr
  let inte ← fitNat 4 x.timerInte
  let counter ← fitNat 64 x.counter
  pure ⟨uarts, gpio, paused, latch, target, armed, intr, inte, counter⟩

/-- The snapshot a host's record stands for, if every field fits (70_reset_and_hazards.md R451). -/
def fitSnapshot (x : RawSnapshot) : Option Snapshot :=
  match fitFields x with
  | some snap => if snapshotFits snap then some snap else none
  | none => none

/-- An external event (30_encoding.md R123, R126). What depends on the state (a UART index, a clock that moves back) is refused by the
event's own meaning. -/
def decodeEvt (e : Evt) : Except DecodeError Instr :=
  match e.code.toNat with
  | 0x1 => if e.bytes.isEmpty then .error .emptyDelivery else .ok (.uartRx e.u e.bytes)
  | 0x2 => .ok (.uartCapacity e.u)
  | 0x3 => if h : e.pin < 30 then .ok (.gpioReport ⟨e.pin, h⟩ (e.lvl.getLsbD 0)) else .error .pinOutOfRange
  | 0x4 => .ok (.clockAdvance e.t)
  | 0x5 => .ok .hostReset
  | 0x6 => .ok .hostSnapshot
  | 0x7 =>
    match fitSnapshot e.snap with
    | some snap => .ok (.hostRestore snap)
    | none => .error .snapshotMisfit
  | _ => .error .illegalEventCode

/-- The operation an agent's record stands for, or why it is refused. -/
def decode : RawOp → Except DecodeError Instr
  | .txn t => decodeTxn t
  | .devsel d => .ok (decodeSel d.port d.sel (coreOfBit d.master) d.wdata)
  | .evt e => decodeEvt e

/-- A UART's fields as a host's record holds them. -/
def rawOfUart (U : Uart) : RawUart where
  fifoBuf := U.fifoBuf.toList.map BitVec.toNat
  fifoRd := U.fifoRd.toNat
  fifoWr := U.fifoWr.toNat
  fifoLen := U.fifoLen
  cr := U.cr.toNat
  lcrH := U.lcrH.toNat
  ibrd := U.ibrd.toNat
  fbrd := U.fbrd.toNat
  ilpr := U.ilpr.toNat
  ifls := U.ifls.toNat
  imsc := U.imsc.toNat
  ris := U.ris.toNat
  dmacr := U.dmacr.toNat

/-- A snapshot as a host's record holds it. -/
def rawOfSnapshot (snap : Snapshot) : RawSnapshot where
  uarts := snap.uarts.map rawOfUart
  funcsel := snap.gpio.funcsel.toList.map BitVec.toNat
  level := snap.gpio.level.toList.map Bool.toNat
  gpioIntr := snap.gpio.intr.toList.map BitVec.toNat
  inte0 := snap.gpio.inte0.toList.map BitVec.toNat
  inte1 := snap.gpio.inte1.toList.map BitVec.toNat
  paused := snap.paused.toNat
  latch := snap.latch.toList.map BitVec.toNat
  target := snap.target.toList.map BitVec.toNat
  armed := snap.armed.toNat
  timerIntr := snap.intr.toNat
  timerInte := snap.inte.toNat
  counter := snap.counter.toNat

/-- A UART's snapshot fields, all 0. -/
def RawUart.zeros : RawUart := ⟨List.replicate 32 0, 0, 0, 0, 0, 0, 0, 0, 0, 0, 0, 0, 0⟩

/-- A snapshot record whose every field is 0, for `n` UARTs. -/
def RawSnapshot.zeros (n : Nat) : RawSnapshot :=
  ⟨List.replicate n RawUart.zeros, List.replicate 30 0, List.replicate 30 0, List.replicate 4 0, List.replicate 4 0,
    List.replicate 4 0, 0, List.replicate 2 0, List.replicate 4 0, 0, 0, 0, 0⟩

/-- An event whose every operand is 0: its delivery is the single byte 0, its snapshot that of the default number of UARTs
(log entry 10). -/
def Evt.zeros : Evt := ⟨0, 0, [0], 0, 0, 0, RawSnapshot.zeros Config.default.uartCount⟩

/-- A transaction from its header (30_encoding.md R120, R121). -/
def encodeTxn (hdr : BitVec 3) (c : CoreId) (addr v : Word) : RawOp :=
  .txn ⟨bitOfCore c, hdr.extractLsb' 2 1, hdr.extractLsb' 0 2, addr, v⟩

/-- A device access from its selector (30_encoding.md R122). -/
def encodeSel (port : DevPort) (sel : BitVec 13) (c : CoreId) (v : Word) : RawOp := .devsel ⟨port, sel, bitOfCore c, v⟩

/-- The selector of a per-pin register: `match + 8p` (30_encoding.md R131). -/
def pinSelector (pat : BitVec 13) (p : Fin 30) : BitVec 13 := pat + BitVec.ofNat 13 (8 * p.val)

/-- The selector of one of four registers: `match + 4r` (30_encoding.md R131, R132). -/
def regSelector (pat : BitVec 13) (r : Fin 4) : BitVec 13 := pat + BitVec.ofNat 13 (4 * r.val)

/-- The record of an operation (30_encoding.md R120 to R132). -/
def encode : Instr → RawOp
  | .busR8 c addr => encodeTxn 0b000 c addr 0
  | .busR16 c addr => encodeTxn 0b001 c addr 0
  | .busR32 c addr => encodeTxn 0b010 c addr 0
  | .busW8 c addr v => encodeTxn 0b100 c addr v
  | .busW16 c addr v => encodeTxn 0b101 c addr v
  | .busW32 c addr v => encodeTxn 0b110 c addr v
  | .uartDrR c u => encodeSel (.uart u) 0x0000 c 0
  | .uartDrW c u v => encodeSel (.uart u) 0x1000 c v
  | .uartRsrR c u => encodeSel (.uart u) 0x0004 c 0
  | .uartEcrW c u v => encodeSel (.uart u) 0x1004 c v
  | .uartFrR c u => encodeSel (.uart u) 0x0018 c 0
  | .uartFrW c u v => encodeSel (.uart u) 0x1018 c v
  | .uartIlprR c u => encodeSel (.uart u) 0x0020 c 0
  | .uartIlprW c u v => encodeSel (.uart u) 0x1020 c v
  | .uartIbrdR c u => encodeSel (.uart u) 0x0024 c 0
  | .uartIbrdW c u v => encodeSel (.uart u) 0x1024 c v
  | .uartFbrdR c u => encodeSel (.uart u) 0x0028 c 0
  | .uartFbrdW c u v => encodeSel (.uart u) 0x1028 c v
  | .uartLcrhR c u => encodeSel (.uart u) 0x002C c 0
  | .uartLcrhW c u v => encodeSel (.uart u) 0x102C c v
  | .uartCrR c u => encodeSel (.uart u) 0x0030 c 0
  | .uartCrW c u v => encodeSel (.uart u) 0x1030 c v
  | .uartIflsR c u => encodeSel (.uart u) 0x0034 c 0
  | .uartIflsW c u v => encodeSel (.uart u) 0x1034 c v
  | .uartImscR c u => encodeSel (.uart u) 0x0038 c 0
  | .uartImscW c u v => encodeSel (.uart u) 0x1038 c v
  | .uartRisR c u => encodeSel (.uart u) 0x003C c 0
  | .uartRisW c u v => encodeSel (.uart u) 0x103C c v
  | .uartMisR c u => encodeSel (.uart u) 0x0040 c 0
  | .uartMisW c u v => encodeSel (.uart u) 0x1040 c v
  | .uartIcrR c u => encodeSel (.uart u) 0x0044 c 0
  | .uartIcrW c u v => encodeSel (.uart u) 0x1044 c v
  | .uartDmacrR c u => encodeSel (.uart u) 0x0048 c 0
  | .uartDmacrW c u v => encodeSel (.uart u) 0x1048 c v
  | .uartReserved c u dir off v => encodeSel (.uart u) (selector dir off) c v
  | .gpioStatusR c p => encodeSel .gpio (pinSelector 0x0000 p) c 0
  | .gpioStatusW c p v => encodeSel .gpio (pinSelector 0x1000 p) c v
  | .gpioCtrlR c p => encodeSel .gpio (pinSelector 0x0004 p) c 0
  | .gpioCtrlW c p v => encodeSel .gpio (pinSelector 0x1004 p) c v
  | .gpioIntrR c r => encodeSel .gpio (regSelector 0x00F0 r) c 0
  | .gpioIntrW c r v => encodeSel .gpio (regSelector 0x10F0 r) c v
  | .gpioP0inteR c r => encodeSel .gpio (regSelector 0x0100 r) c 0
  | .gpioP0inteW c r v => encodeSel .gpio (regSelector 0x1100 r) c v
  | .gpioP0intsR c r => encodeSel .gpio (regSelector 0x0120 r) c 0
  | .gpioP0intsW c r v => encodeSel .gpio (regSelector 0x1120 r) c v
  | .gpioP1inteR c r => encodeSel .gpio (regSelector 0x0130 r) c 0
  | .gpioP1inteW c r v => encodeSel .gpio (regSelector 0x1130 r) c v
  | .gpioP1intsR c r => encodeSel .gpio (regSelector 0x0150 r) c 0
  | .gpioP1intsW c r v => encodeSel .gpio (regSelector 0x1150 r) c v
  | .gpioReserved c dir off v => encodeSel .gpio (selector dir off) c v
  | .timerTimehwR c => encodeSel .timer 0x0000 c 0
  | .timerTimehwW c v => encodeSel .timer 0x1000 c v
  | .timerTimelwR c => encodeSel .timer 0x0004 c 0
  | .timerTimelwW c v => encodeSel .timer 0x1004 c v
  | .timerTimehrR c => encodeSel .timer 0x0008 c 0
  | .timerTimehrW c v => encodeSel .timer 0x1008 c v
  | .timerTimelrR c => encodeSel .timer 0x000C c 0
  | .timerTimelrW c v => encodeSel .timer 0x100C c v
  | .timerAlarmR c k => encodeSel .timer (regSelector 0x0010 k) c 0
  | .timerAlarmW c k v => encodeSel .timer (regSelector 0x1010 k) c v
  | .timerArmedR c => encodeSel .timer 0x0020 c 0
  | .timerArmedW c v => encodeSel .timer 0x1020 c v
  | .timerRawhR c => encodeSel .timer 0x0024 c 0
  | .timerRawhW c v => encodeSel .timer 0x1024 c v
  | .timerRawlR c => encodeSel .timer 0x0028 c 0
  | .timerRawlW c v => encodeSel .timer 0x1028 c v
  | .timerPauseR c => encodeSel .timer 0x0030 c 0
  | .timerPauseW c v => encodeSel .timer 0x1030 c v
  | .timerIntrR c => encodeSel .timer 0x0034 c 0
  | .timerIntrW c v => encodeSel .timer 0x1034 c v
  | .timerInteR c => encodeSel .timer 0x0038 c 0
  | .timerInteW c v => encodeSel .timer 0x1038 c v
  | .timerIntsR c => encodeSel .timer 0x0040 c 0
  | .timerIntsW c v => encodeSel .timer 0x1040 c v
  | .timerReserved c dir off v => encodeSel .timer (selector dir off) c v
  | .uartRx u bytes => .evt { Evt.zeros with code := 0x1, u := u, bytes := bytes }
  | .uartCapacity u => .evt { Evt.zeros with code := 0x2, u := u }
  | .gpioReport p lvl => .evt { Evt.zeros with code := 0x3, pin := p.val, lvl := BitVec.ofBool lvl }
  | .clockAdvance t => .evt { Evt.zeros with code := 0x4, t := t }
  | .hostReset => .evt { Evt.zeros with code := 0x5 }
  | .hostSnapshot => .evt { Evt.zeros with code := 0x6 }
  | .hostRestore snap => .evt { Evt.zeros with code := 0x7, snap := rawOfSnapshot snap }

/-- The device of a table word of format DEVSEL, which carries none (log entry 10): the first of UART, TIMER and GPIO that has a
register at the selector, which is the most specific mask first (30_encoding.md R125); the first UART where none has. -/
def tablePort (sel : BitVec 13) : DevPort :=
  if uartRows.any (·.applies sel) then .uart 0
  else if timerRows.any (·.applies sel) then .timer
  else if gpioRows.any (·.applies sel) then .gpio
  else .uart 0

/-- The operation a row's table word stands for, every operand 0 (log entry 10). A word of at most 8 bits is an event code or a
transaction header, the 4-bit code first; a longer one is a selector. -/
def tableOp (nbits w : Nat) : RawOp :=
  if nbits ≤ 8 then
    if 1 ≤ w % 16 ∧ w % 16 ≤ 7 then .evt { Evt.zeros with code := BitVec.ofNat 4 w }
    else encodeTxn (BitVec.ofNat 3 w) .core0 0 0
  else encodeSel (tablePort (BitVec.ofNat 13 w)) (BitVec.ofNat 13 w) .core0 0

/-- The operation the decoder reads from a table word. -/
def decodeTableWord (nbits w : Nat) : Option Instr := (decode (tableOp nbits w)).toOption

end Sys2Proof
end

