-- ==== Sys2Proof/Machine/State.lean ====
section
/-! DEFINITION. The whole state of the core (10_state.md R32) as plain data, the outcomes' reasons, power-on and reset. -/

namespace Sys2Proof.Machine

/-- SRAM as the bytes written since power-on, by offset, in one canonical form (`Memory.wf`). An unlisted offset holds nothing that
was written; what a bus read of it gives is the power-on draw (10_state.md R71; log entry 5). -/
abbrev Memory := List Host.Cell

/-- The canonical form: offsets strictly rising. No entry can equal what an unlisted offset holds, which is no byte at all. -/
abbrev Memory.wf (m : Memory) : Prop := m.Pairwise fun x y => x.1 < y.1

/-- The kinds of guest error (60_exceptions.md R401). -/
inductive GuestErrorKind where
  | misaligned
  | unmapped
  | stub
  | badWidth
  | reserved
  | readOnlyRegion
  deriving DecidableEq, Repr

/-- One record of the diagnostic log (10_state.md R72). -/
structure DiagRecord where
  kind : GuestErrorKind
  master : CoreId
  dir : Dir
  addr : Word
  width : BusWidth
  wdata : Word
  deriving DecidableEq, Repr

/-- What an operation gives back to the agent that issued it (00_scope.md R13, R16 `return`; log entry 3). -/
inductive Reply where
  /-- Nothing has run yet. -/
  | none
  /-- The 32-bit result of a read, to its core. -/
  | value (c : CoreId) (v : Word)
  /-- A write has completed (41_bus.md R151). -/
  | written (c : CoreId)
  /-- An external event with no result has completed. -/
  | done
  /-- The answer of UART.CAPACITY (42_uart.md R232). -/
  | capacity (n : Nat)
  /-- The record of HOST.SNAPSHOT (70_reset_and_hazards.md R450). -/
  | snapshot (snap : Snapshot)
  deriving DecidableEq, Repr

/-- The state of the core (10_state.md R32), with the model's own fields `cfg`, `pending`, `reply` and `draws` (log entries 1 to 4). -/
structure State where
  /-- The configuration (00_scope.md R8): an argument of every step, which no operation changes. -/
  cfg : Config
  /-- The UART instances (R33). -/
  uarts : List Uart
  /-- The GPIO device (R50). -/
  gpio : Gpio
  /-- The timer device (R60). -/
  timer : Timer
  /-- The Virtual Clock's time (R70). -/
  clockNow : Time
  /-- The writable RAM (R71). -/
  sram : Memory
  /-- The diagnostic log, oldest first (R72). -/
  diag : List DiagRecord
  /-- The bytes each UART has handed to its Serial Transport, oldest first (R73). -/
  txLog : List (List Byte)
  /-- How many free values `draw()` has given. -/
  draws : Nat
  /-- The operations the agents have issued and that have not run, in the order they run (00_scope.md R11, R12). -/
  pending : List RawOp
  /-- What the last operation gave back. -/
  reply : Reply
  deriving DecidableEq, Repr

/-- The reasons a step may stop with a fault: none, since no operation of this hardware traps or faults (60_exceptions.md R403). -/
inductive Fault where
  deriving DecidableEq, Repr

/-- The inputs no step accepts. Each is safe: the spec refuses the input at the boundary. -/
inductive Refusal where
  /-- An operation the model gives no meaning; raised by an arm of `exec` only, and no arm raises it. Safe: nothing is claimed of it. -/
  | notModelled (mnemonic : String)
  /-- A record the decoder refuses; raised by `step` (30_encoding.md R126). Safe: the spec refuses it. -/
  | illFormed (e : DecodeError)
  /-- A UART index at or above UART_COUNT; raised by the UART operations (30_encoding.md R126). Safe: the spec refuses it. -/
  | noSuchUart
  /-- A clock that moves back; raised by CLOCK.ADVANCE (30_encoding.md R126, 44_timer.md R340). Safe: the spec refuses it. -/
  | clockBackwards
  /-- A snapshot whose fields do not fit, or with another number of UARTs; raised by HOST.RESTORE (70_reset_and_hazards.md R451).
  Safe: the spec refuses it. -/
  | snapshotMisfit
  /-- An operation that is no device register access, handed to a device; raised by `runDevice` only, which no bus transaction
  leads to. Safe: it stops. -/
  | notADeviceOperation
  deriving DecidableEq, Repr

/-- The core right after power-on with a configuration, a clock value and RAM contents (70_reset_and_hazards.md R441). -/
def State.powerOn (cfg : Config) (clockNow : Time) (sram : Memory) : State where
  cfg := cfg
  uarts := List.replicate cfg.uartCount Uart.reset
  gpio := Gpio.reset
  timer := Timer.reset clockNow
  clockNow := clockNow
  sram := sram
  diag := []
  txLog := List.replicate cfg.uartCount []
  draws := 0
  pending := []
  reply := .none

/-- The initial state of a composition, if it can be built: a configuration that fails 00_scope.md R9 has none
(60_exceptions.md R404). -/
def State.init (cfg : Config) (clockNow : Time) (sram : Memory) : Option State :=
  if cfg.ok then some (State.powerOn cfg clockNow sram) else none

/-- The machine right after power-on with the default configuration, the clock at 0 (log entry 6) and RAM that nothing has written. -/
def State.reset : State := State.powerOn Config.default 0 []

end Sys2Proof.Machine
end

