-- ==== Sys2Proof/Machine/Flags.lean ====
section
/-! DEFINITION. Values computed from state and never stored: the UART flags and enables, the interrupt bits, the pin conditions, and
the interrupt lines with their wiring (10_state.md R37 to R39, R74; 43_gpio.md R280; 60_exceptions.md R405 to R410). -/

namespace Sys2Proof.Machine

/-- RX, bit 4 of the UART interrupt registers (10_state.md R39). -/
abbrev uartRxBit : BitVec 11 := 0x010

/-- TX, bit 5 (10_state.md R39). -/
abbrev uartTxBit : BitVec 11 := 0x020

/-- OE, bit 10 (10_state.md R39). -/
abbrev uartOeBit : BitVec 11 := 0x400

/-- UARTEN and TXE are set (10_state.md R37, 42_uart.md R201). -/
def Uart.txEnabled (U : Uart) : Bool := U.cr.getLsbD 0 && U.cr.getLsbD 8

/-- UARTEN and RXE are set (10_state.md R37, 42_uart.md R231). -/
def Uart.rxEnabled (U : Uart) : Bool := U.cr.getLsbD 0 && U.cr.getLsbD 9

/-- UARTFR (10_state.md R38): RXFE at bit 4, RXFF at bit 6, TXFE always 1 at bit 7. -/
def Uart.flagWord (U : Uart) : Word :=
  (if U.fifoLen = 0 then 0x10 else 0) ||| (if U.fifoLen = fifoCapacity then 0x40 else 0) ||| 0x80

/-- The masked interrupt status (42_uart.md R224). -/
def Uart.mis (U : Uart) : BitVec 11 := U.ris &&& U.imsc

/-- The receive capacity (42_uart.md R232). -/
def Uart.rxCapacity (U : Uart) : Nat := fifoCapacity - U.fifoLen

/-- The enables of a core (10_state.md R50 `inte[c]`). -/
def Gpio.inte (g : Gpio) : CoreId → Vector Word 4
  | .core0 => g.inte0
  | .core1 => g.inte1

/-- The function SIO (10_state.md R53). -/
abbrev funcSio : BitVec 5 := 5

/-- The masked status of a core (43_gpio.md R268, R272). -/
def Gpio.ints (g : Gpio) (c : CoreId) (r : Fin 4) : Word := g.intr[r] &&& (g.inte c)[r]

/-- The conditions a report satisfies, level-low, level-high, edge-low, edge-high from bit 0 (43_gpio.md R280 `cond`). -/
def pinConditions (prev lvl : Bool) : BitVec 4 :=
  BitVec.ofBool (!prev && lvl) ++ BitVec.ofBool (prev && !lvl) ++ BitVec.ofBool lvl ++ BitVec.ofBool (!lvl)

/-- The register that holds a pin's four bits (10_state.md R51). -/
def pinReg (p : Fin 30) : Fin 4 := ⟨p.val / 8, by omega⟩

/-- The place of a pin's four bits in its register (10_state.md R51). -/
def pinShift (p : Fin 30) : Nat := 4 * (p.val % 8)

/-- The conditions of a pin that are enabled for at least one core (43_gpio.md R280 `gate`). -/
def Gpio.gate (g : Gpio) (p : Fin 30) : BitVec 4 :=
  ((g.inte0[pinReg p] ||| g.inte1[pinReg p]) >>> pinShift p).setWidth 4

/-- The timer's masked status (44_timer.md R334). -/
def Timer.ints (t : Timer) : BitVec 4 := t.intr &&& t.inte

/-- `uart_irq[u]` (60_exceptions.md R405); a UART that does not exist has no line. -/
def State.uartIrq (s : State) (u : Nat) : Bool :=
  match s.uarts[u]? with
  | some U => U.mis != 0
  | none => false

/-- `gpio_irq[c]` (60_exceptions.md R406). -/
def State.gpioIrq (s : State) (c : CoreId) : Bool :=
  s.gpio.ints c 0 != 0 || s.gpio.ints c 1 != 0 || s.gpio.ints c 2 != 0 || s.gpio.ints c 3 != 0

/-- `timer_irq[k]` (60_exceptions.md R407). -/
def State.timerIrq (s : State) (k : Fin 4) : Bool := s.timer.ints.getLsbD k.val

/-- The interrupt outputs (00_scope.md R7). -/
inductive Line where
  | uart (u : Nat)
  | gpio (c : CoreId)
  | timer (k : Fin 4)
  deriving DecidableEq, Repr

/-- The level of a line: a pure function of state (60_exceptions.md R408). -/
def State.lineLevel (s : State) : Line → Bool
  | .uart u => s.uartIrq u
  | .gpio c => s.gpioIrq c
  | .timer k => s.timerIrq k

/-- A set of controllers holds that of a core. -/
def CoreSet.has (w : CoreSet) : CoreId → Bool
  | .core0 => w.core0
  | .core1 => w.core1

/-- Which controllers a line is wired to (60_exceptions.md R410): a GPIO line to its own core's, the others as configured. -/
def lineWiredTo (cfg : Config) : Line → CoreId → Bool
  | .uart u, c => ((cfg.uartWiring[u]?).map fun w => CoreSet.has w c).getD false
  | .gpio g, c => g == c
  | .timer k, c => CoreSet.has cfg.timerWiring[k] c

/-- Core `c`'s controller sees the line asserted. -/
def State.controllerSees (s : State) (c : CoreId) (l : Line) : Bool := lineWiredTo s.cfg l c && s.lineLevel l

/-- The code of a guest error kind (60_exceptions.md R401). -/
def guestErrorCode : GuestErrorKind → Nat
  | .misaligned => 1
  | .unmapped => 2
  | .stub => 3
  | .badWidth => 4
  | .reserved => 5
  | .readOnlyRegion => 6

end Sys2Proof.Machine
end

