-- ==== Sys2Proof/Machine/Ops.lean ====
section
/-! DEFINITION. The shared operations every meaning is written over: replies, guest errors, memory, address decoding, the UART FIFO,
the counter and alarm evaluation. -/

namespace Sys2Proof.Machine

/-- The outcome of a meaning. -/
abbrev Result := Host.Outcome State Fault Refusal

/-- Give a read's result to its core (00_scope.md R16 `return`). -/
def State.answer (s : State) (c : CoreId) (v : Word) : State := { s with reply := .value c v }

/-- Tell a core that its write has completed (41_bus.md R151). -/
def State.complete (s : State) (c : CoreId) : State := { s with reply := .written c }

/-- Give an event's answer to its agent. -/
def State.setReply (s : State) (r : Reply) : State := { s with reply := r }

/-- Replace a UART's fields. -/
def State.setUart (s : State) (u : Nat) (U : Uart) : State := { s with uarts := s.uarts.set u U }

/-- Replace the GPIO fields. -/
def State.setGpio (s : State) (g : Gpio) : State := { s with gpio := g }

/-- Replace the timer's fields. -/
def State.setTimer (s : State) (t : Timer) : State := { s with timer := t }

/-- Move the Virtual Clock. -/
def State.setClock (s : State) (t : Time) : State := { s with clockNow := t }

/-- Replace the RAM. -/
def State.setSram (s : State) (m : Memory) : State := { s with sram := m }

/-- Append a diagnostic record (10_state.md R72). -/
def State.logDiag (s : State) (d : DiagRecord) : State := { s with diag := s.diag ++ [d] }

/-- Replace the queue of operations. -/
def State.setPending (s : State) (ops : List RawOp) : State := { s with pending := ops }

/-- Hand a byte to the Serial Transport of a UART (42_uart.md R203). -/
def State.send (s : State) (u : Nat) (b : Byte) : State :=
  { s with txLog := s.txLog.set u (s.txLog.getD u [] ++ [b]) }

/-- Answer a read with a free value, a fresh one each time (00_scope.md R16 `draw()`; log entry 4). -/
def State.answerDraw (s : State) (c : CoreId) : State :=
  { s with draws := s.draws + 1, reply := .value c (Config.draw s.draws) }

/-- End a transaction that stores nothing: a read returns 0, a write is ignored (60_exceptions.md R400). -/
def State.endIgnored (s : State) (c : CoreId) (dir : Dir) : State :=
  match dir with
  | .read => s.answer c 0
  | .write => s.complete c

/-- `raise GuestError` and the end of the transaction (60_exceptions.md R400): one record, then 0 or nothing. -/
def State.guestError (s : State) (kind : GuestErrorKind) (c : CoreId) (dir : Dir) (addr : Word) (width : BusWidth) (wdata : Word) :
    State :=
  (s.logDiag ⟨kind, c, dir, addr, width, wdata⟩).endIgnored c dir

/-! Memory. -/

/-- The byte written at an offset, if one was. -/
def Memory.lookup : Memory → Nat → Option Byte
  | [], _ => none
  | (k, b) :: rest, a => if k = a then some b else Memory.lookup rest a

/-- Write a byte, keeping the offsets strictly rising. -/
def Memory.write : Memory → Nat → Byte → Memory
  | [], a, b => [(a, b)]
  | (k, x) :: rest, a, b =>
    if a < k then (a, b) :: (k, x) :: rest
    else if a = k then (a, b) :: rest
    else (k, x) :: Memory.write rest a b

/-- Write bytes at rising offsets (20_memory.md R92). -/
def Memory.writeBytes : Memory → Nat → List Byte → Memory
  | m, _, [] => m
  | m, a, b :: bs => Memory.writeBytes (Memory.write m a b) (a + 1) bs

/-- The byte at an offset of a memory region (20_memory.md R91 `bytes(i)`). -/
def State.memByte (s : State) (m : MemKind) (off : Nat) : Byte :=
  match m with
  | .rom => s.cfg.romImage.byte off
  | .xip => s.cfg.xipImage.byte off
  | .sram => (s.sram.lookup off).getD (Config.sramPowerOn off)

/-- `n` bytes from an offset on, the lowest offset first. -/
def State.memBytes (s : State) (m : MemKind) : Nat → Nat → List Byte
  | _, 0 => []
  | off, n + 1 => s.memByte m off :: s.memBytes m (off + 1) n

/-- MemRead (20_memory.md R91). -/
def State.memRead (s : State) (m : MemKind) (off : Nat) (w : BusWidth) : Word := wordOfBytesLE (s.memBytes m off (widthBytes w))

/-- MemWrite to SRAM (20_memory.md R92). -/
def State.memWrite (s : State) (off : Nat) (w : BusWidth) (v : Word) : State :=
  s.setSram (s.sram.writeBytes off (bytesLE (widthBytes w) v))

/-! The dispatcher. -/

/-- What `decode` returns (20_memory.md R83). -/
inductive Target where
  | mem (m : MemKind) (off : Nat)
  | dev (port : DevPort) (off : BitVec 12)
  | stub
  | err (kind : GuestErrorKind)
  deriving DecidableEq, Repr

/-- The region holds every byte of the access (20_memory.md R83). -/
def regionHolds (a n : Nat) (r : Region) : Bool := decide (r.base ≤ a) && decide (a + n - 1 ≤ r.base + r.size - 1)

/-- What an access of a width to a region that holds it leads to (20_memory.md R83). -/
def regionTarget (r : Region) (a : Nat) (w : BusWidth) : Target :=
  match r.kind with
  | .mem m => .mem m (a - r.base)
  | .stub => .stub
  | .device port => if w = .word then .dev port (BitVec.ofNat 12 (a - r.base)) else .err .badWidth

/-- `decode` (20_memory.md R83): alignment first, then the regions. -/
def decodeAddr (cfg : Config) (addr : Word) (w : BusWidth) : Target :=
  if addr.toNat % widthBytes w ≠ 0 then .err .misaligned
  else
    match cfg.regions.find? (regionHolds addr.toNat (widthBytes w)) with
    | some r => regionTarget r addr.toNat w
    | none => .err .unmapped

/-- The base address of a device's window. -/
def portBase (cfg : Config) : DevPort → Nat
  | .uart u => cfg.uartBase.getD u 0
  | .gpio => cfg.gpioBase
  | .timer => cfg.timerBase

/-- The address of a device register (20_memory.md R85, read from the offset to the address). -/
def portAddr (cfg : Config) (port : DevPort) (off : BitVec 12) : Word := BitVec.ofNat 32 (portBase cfg port + off.toNat)

/-! Register accesses. -/

/-- Run an operation on a UART instance; an index at or above UART_COUNT is refused (30_encoding.md R126). -/
def withUart (s : State) (u : Nat) (k : Uart → Result) : Result :=
  match s.uarts[u]? with
  | some U => k U
  | none => .refused .noSuchUart

/-- A UART register read without side effect. -/
def readUart (c : CoreId) (u : Nat) (s : State) (f : Uart → Word) : Result := withUart s u fun U => .next (s.answer c (f U))

/-- A UART register write. -/
def writeUart (c : CoreId) (u : Nat) (s : State) (f : Uart → Uart) : Result :=
  withUart s u fun U => .next ((s.setUart u (f U)).complete c)

/-- A write the UART ignores (00_scope.md R17). -/
def ignoreUart (c : CoreId) (u : Nat) (s : State) : Result := withUart s u fun _ => .next (s.complete c)

/-- A GPIO or timer register read without side effect. -/
def readReg (c : CoreId) (s : State) (v : Word) : Result := .next (s.answer c v)

/-- A GPIO register write. -/
def writeGpio (c : CoreId) (s : State) (g : Gpio) : Result := .next ((s.setGpio g).complete c)

/-- A timer register write. -/
def writeTimer (c : CoreId) (s : State) (t : Timer) : Result := .next ((s.setTimer t).complete c)

/-- A write the GPIO or the timer ignores (00_scope.md R17). -/
def ignoreReg (c : CoreId) (s : State) : Result := .next (s.complete c)

/-- An access to an offset with no register (30_encoding.md R127). -/
def reservedAccess (port : DevPort) (c : CoreId) (dir : Dir) (off : BitVec 12) (v : Word) (s : State) : Result :=
  .next (s.guestError .reserved c dir (portAddr s.cfg port off) .word v)

/-! The UART's FIFO (42_uart.md R220, R231). -/

/-- The byte at the read cursor. -/
def Uart.oldest (U : Uart) : Byte := U.fifoBuf[U.fifoRd.toNat]'(U.fifoRd.isLt)

/-- `fifo_push` (42_uart.md R220). -/
def Uart.push (U : Uart) (b : Byte) : Uart :=
  { U with fifoBuf := U.fifoBuf.set U.fifoWr.toNat b U.fifoWr.isLt, fifoWr := U.fifoWr + 1, fifoLen := U.fifoLen + 1 }

/-- `fifo_pop`, without the byte (42_uart.md R220). -/
def Uart.pop (U : Uart) : Uart := { U with fifoRd := U.fifoRd + 1, fifoLen := U.fifoLen - 1 }

/-- Set raw interrupt bits. -/
def Uart.raise (U : Uart) (bits : BitVec 11) : Uart := { U with ris := U.ris ||| bits }

/-- Clear raw interrupt bits. -/
def Uart.clear (U : Uart) (bits : BitVec 11) : Uart := { U with ris := U.ris &&& ~~~bits }

/-- The state change of a data read that finds a byte (42_uart.md R200). -/
def Uart.popData (U : Uart) : Uart := if U.pop.fifoLen = 0 then U.pop.clear uartRxBit else U.pop

/-- One byte of a delivery (42_uart.md R231). -/
def Uart.receive (U : Uart) (b : Byte) : Uart :=
  if U.rxEnabled then
    if U.fifoLen < fifoCapacity then (U.push b).raise uartRxBit
    else (U.raise uartOeBit).raise uartRxBit
  else U

/-- A whole delivery, oldest byte first (42_uart.md R231). -/
def Uart.receiveAll (U : Uart) (bytes : List Byte) : Uart := bytes.foldl Uart.receive U

/-! The timer's counter and alarms (10_state.md R61, 44_timer.md R310, R315). -/

/-- `counter(S)` (10_state.md R61). -/
def Timer.counter (t : Timer) (clockNow : Time) : Time := if t.paused then t.frozen else clockNow - t.base

/-- The counter of a state. -/
def State.counter (s : State) : Time := s.timer.counter s.clockNow

/-- Alarm `k` is armed and its target is at or below the counter (44_timer.md R310). -/
def Timer.due (t : Timer) (now : Time) (k : Fin 4) : Bool := t.armed.getLsbD k.val && decide (t.target[k] ≤ now)

/-- The alarms that are due, bit `k` for alarm `k`. -/
def Timer.dueMask (t : Timer) (now : Time) : BitVec 4 :=
  BitVec.ofBool (t.due now 3) ++ BitVec.ofBool (t.due now 2) ++ BitVec.ofBool (t.due now 1) ++ BitVec.ofBool (t.due now 0)

/-- `eval_alarms` at a counter value: every due alarm fires and disarms (44_timer.md R310; the alarms are independent, so the loop
is written as one mask, log entry 17). -/
def Timer.fireDue (t : Timer) (now : Time) : Timer :=
  { t with armed := t.armed &&& ~~~(t.dueMask now), intr := t.intr ||| t.dueMask now }

/-- `eval_alarms()` (44_timer.md R310) at the timer's own counter. -/
def Timer.evalAlarms (t : Timer) (clockNow : Time) : Timer := t.fireDue (t.counter clockNow)

/-- Make the counter read `x`, without the alarm evaluation (44_timer.md R315). -/
def Timer.setCounter (t : Timer) (clockNow x : Time) : Timer :=
  if t.paused then { t with frozen := x } else { t with base := clockNow - x }

/-- `rebase` (44_timer.md R315). -/
def Timer.rebase (t : Timer) (clockNow x : Time) : Timer := (t.setCounter clockNow x).evalAlarms clockNow

/-- The latch slot of a core: one for both when the scope is shared (44_timer.md R316). -/
def latchSlot : LatchScope → CoreId → Fin 2
  | .shared, _ => 0
  | .perCore, .core0 => 0
  | .perCore, .core1 => 1

/-- The clock time at which a running armed alarm fires (44_timer.md R345). -/
def State.alarmDeadline (s : State) (k : Fin 4) : Time := s.clockNow + (s.timer.target[k] - s.counter)

end Sys2Proof.Machine
end

