-- ==== Sys2Proof/Machine/Gpio.lean ====
section
/-! DEFINITION. The meanings of the GPIO operations (43_gpio.md). -/

namespace Sys2Proof.Machine

/-- GPIO.STATUS.R (43_gpio.md R260): the last reported level at bit 17. -/
def execGpioStatusR (c : CoreId) (p : Fin 30) (s : State) : Result :=
  readReg c s (zext32 (BitVec.ofBool s.gpio.level[p]) <<< 17)

/-- GPIO.STATUS.W (43_gpio.md R261). -/
def execGpioStatusW (c : CoreId) (_p : Fin 30) (_v : Word) (s : State) : Result :=
  ignoreReg c s

/-- GPIO.CTRL.R (43_gpio.md R262). -/
def execGpioCtrlR (c : CoreId) (p : Fin 30) (s : State) : Result :=
  readReg c s (zext32 s.gpio.funcsel[p])

/-- GPIO.CTRL.W (43_gpio.md R263). -/
def execGpioCtrlW (c : CoreId) (p : Fin 30) (v : Word) (s : State) : Result :=
  writeGpio c s { s.gpio with funcsel := s.gpio.funcsel.set p (lowBits 5 v) }

/-- GPIO.INTR.R (43_gpio.md R264). -/
def execGpioIntrR (c : CoreId) (r : Fin 4) (s : State) : Result :=
  readReg c s s.gpio.intr[r]

/-- GPIO.INTR.W (43_gpio.md R265): write-1-to-clear. -/
def execGpioIntrW (c : CoreId) (r : Fin 4) (v : Word) (s : State) : Result :=
  writeGpio c s { s.gpio with intr := s.gpio.intr.set r (s.gpio.intr[r] &&& ~~~(v &&& intrMask r)) }

/-- GPIO.P0INTE.R (43_gpio.md R266). -/
def execGpioP0inteR (c : CoreId) (r : Fin 4) (s : State) : Result :=
  readReg c s s.gpio.inte0[r]

/-- GPIO.P0INTE.W (43_gpio.md R267). -/
def execGpioP0inteW (c : CoreId) (r : Fin 4) (v : Word) (s : State) : Result :=
  writeGpio c s { s.gpio with inte0 := s.gpio.inte0.set r (v &&& intrMask r) }

/-- GPIO.P0INTS.R (43_gpio.md R268). -/
def execGpioP0intsR (c : CoreId) (r : Fin 4) (s : State) : Result :=
  readReg c s (s.gpio.ints .core0 r)

/-- GPIO.P0INTS.W (43_gpio.md R269). -/
def execGpioP0intsW (c : CoreId) (_r : Fin 4) (_v : Word) (s : State) : Result :=
  ignoreReg c s

/-- GPIO.P1INTE.R (43_gpio.md R270). -/
def execGpioP1inteR (c : CoreId) (r : Fin 4) (s : State) : Result :=
  readReg c s s.gpio.inte1[r]

/-- GPIO.P1INTE.W (43_gpio.md R271). -/
def execGpioP1inteW (c : CoreId) (r : Fin 4) (v : Word) (s : State) : Result :=
  writeGpio c s { s.gpio with inte1 := s.gpio.inte1.set r (v &&& intrMask r) }

/-- GPIO.P1INTS.R (43_gpio.md R272). -/
def execGpioP1intsR (c : CoreId) (r : Fin 4) (s : State) : Result :=
  readReg c s (s.gpio.ints .core1 r)

/-- GPIO.P1INTS.W (43_gpio.md R273). -/
def execGpioP1intsW (c : CoreId) (_r : Fin 4) (_v : Word) (s : State) : Result :=
  ignoreReg c s

/-- GPIO.RESERVED (43_gpio.md R274). -/
def execGpioReserved (c : CoreId) (dir : Dir) (off : BitVec 12) (v : Word) (s : State) : Result :=
  reservedAccess .gpio c dir off v s

/-- The pending bits a report leaves (43_gpio.md R280): the newly satisfied, enabled conditions of the pin are added. -/
def Gpio.recordConditions (g : Gpio) (p : Fin 30) (cond : BitVec 4) : Gpio :=
  { g with intr := g.intr.set (pinReg p) (g.intr[pinReg p] ||| zext32 (cond &&& g.gate p) <<< pinShift p) }

/-- A pin report (43_gpio.md R280): the level always follows; only a pin in SIO records conditions. -/
def Gpio.report (g : Gpio) (p : Fin 30) (lvl : Bool) : Gpio :=
  let g' := { g with level := g.level.set p lvl }
  if g.funcsel[p] = funcSio then g'.recordConditions p (pinConditions g.level[p] lvl) else g'

/-- GPIO.REPORT (43_gpio.md R280). -/
def execGpioReport (p : Fin 30) (lvl : Bool) (s : State) : Result :=
  .next ((s.setGpio (s.gpio.report p lvl)).setReply .done)

end Sys2Proof.Machine
end

