-- ==== Sys2Proof/Machine/Timer.lean ====
section
/-! DEFINITION. The meanings of the timer operations and of the Virtual Clock's advance (44_timer.md). -/

namespace Sys2Proof.Machine

/-- TIMER.TIMEHW.R (44_timer.md R311). -/
def execTimerTimehwR (c : CoreId) (s : State) : Result :=
  readReg c s 0

/-- TIMER.TIMEHW.W (44_timer.md R312): no effect. -/
def execTimerTimehwW (c : CoreId) (_v : Word) (s : State) : Result :=
  ignoreReg c s

/-- TIMER.TIMELW.R (44_timer.md R313). -/
def execTimerTimelwR (c : CoreId) (s : State) : Result :=
  readReg c s 0

/-- TIMER.TIMELW.W (44_timer.md R314): rebase to the zero-extended data. -/
def execTimerTimelwW (c : CoreId) (v : Word) (s : State) : Result :=
  writeTimer c s (s.timer.rebase s.clockNow (v.setWidth 64))

/-- TIMER.TIMEHR.R (44_timer.md R316): latch the counter, return its high word. -/
def execTimerTimehrR (c : CoreId) (s : State) : Result :=
  .next ((s.setTimer { s.timer with latch := s.timer.latch.set (latchSlot s.cfg.latchScope c) s.counter }).answer c
    (hiWord s.counter))

/-- TIMER.TIMEHR.W (44_timer.md R317). -/
def execTimerTimehrW (c : CoreId) (_v : Word) (s : State) : Result :=
  ignoreReg c s

/-- TIMER.TIMELR.R (44_timer.md R318): the low word of the latch. -/
def execTimerTimelrR (c : CoreId) (s : State) : Result :=
  readReg c s (loWord s.timer.latch[latchSlot s.cfg.latchScope c])

/-- TIMER.TIMELR.W (44_timer.md R319). -/
def execTimerTimelrW (c : CoreId) (_v : Word) (s : State) : Result :=
  ignoreReg c s

/-- TIMER.ALARM.R (44_timer.md R320). -/
def execTimerAlarmR (c : CoreId) (k : Fin 4) (s : State) : Result :=
  readReg c s (loWord s.timer.target[k])

/-- Arm an alarm, without the alarm evaluation: the data below the counter's high word (44_timer.md R321). -/
def Timer.arm (t : Timer) (clockNow : Time) (k : Fin 4) (v : Word) : Timer :=
  { t with
    target := t.target.set k (hiWord (t.counter clockNow) ++ v)
    armed := t.armed ||| (1#4 <<< k.val) }

/-- TIMER.ALARM.W (44_timer.md R321): arm, then evaluate the alarms. -/
def execTimerAlarmW (c : CoreId) (k : Fin 4) (v : Word) (s : State) : Result :=
  writeTimer c s ((s.timer.arm s.clockNow k v).evalAlarms s.clockNow)

/-- TIMER.ARMED.R (44_timer.md R322). -/
def execTimerArmedR (c : CoreId) (s : State) : Result :=
  readReg c s (zext32 s.timer.armed)

/-- TIMER.ARMED.W (44_timer.md R323): write-1-to-clear, which disarms. -/
def execTimerArmedW (c : CoreId) (v : Word) (s : State) : Result :=
  writeTimer c s { s.timer with armed := s.timer.armed &&& ~~~(lowBits 4 v) }

/-- TIMER.RAWH.R (44_timer.md R324). -/
def execTimerRawhR (c : CoreId) (s : State) : Result :=
  readReg c s (hiWord s.counter)

/-- TIMER.RAWH.W (44_timer.md R325). -/
def execTimerRawhW (c : CoreId) (_v : Word) (s : State) : Result :=
  ignoreReg c s

/-- TIMER.RAWL.R (44_timer.md R326). -/
def execTimerRawlR (c : CoreId) (s : State) : Result :=
  readReg c s (loWord s.counter)

/-- TIMER.RAWL.W (44_timer.md R327). -/
def execTimerRawlW (c : CoreId) (_v : Word) (s : State) : Result :=
  ignoreReg c s

/-- TIMER.PAUSE.R (44_timer.md R328). -/
def execTimerPauseR (c : CoreId) (s : State) : Result :=
  readReg c s (zext32 (BitVec.ofBool s.timer.paused))

/-- Pause or resume, without the alarm evaluation (44_timer.md R329): the counter keeps its value. -/
def Timer.setPaused (t : Timer) (clockNow : Time) (p : Bool) : Timer :=
  if p = true ∧ t.paused = false then { t with frozen := t.counter clockNow, paused := true }
  else if p = false ∧ t.paused = true then { t with base := clockNow - t.frozen, paused := false }
  else t

/-- TIMER.PAUSE.W (44_timer.md R329). -/
def execTimerPauseW (c : CoreId) (v : Word) (s : State) : Result :=
  writeTimer c s ((s.timer.setPaused s.clockNow (v.getLsbD 0)).evalAlarms s.clockNow)

/-- TIMER.INTR.R (44_timer.md R330). -/
def execTimerIntrR (c : CoreId) (s : State) : Result :=
  readReg c s (zext32 s.timer.intr)

/-- TIMER.INTR.W (44_timer.md R331): write-1-to-clear. -/
def execTimerIntrW (c : CoreId) (v : Word) (s : State) : Result :=
  writeTimer c s { s.timer with intr := s.timer.intr &&& ~~~(lowBits 4 v) }

/-- TIMER.INTE.R (44_timer.md R332). -/
def execTimerInteR (c : CoreId) (s : State) : Result :=
  readReg c s (zext32 s.timer.inte)

/-- TIMER.INTE.W (44_timer.md R333). -/
def execTimerInteW (c : CoreId) (v : Word) (s : State) : Result :=
  writeTimer c s { s.timer with inte := lowBits 4 v }

/-- TIMER.INTS.R (44_timer.md R334). -/
def execTimerIntsR (c : CoreId) (s : State) : Result :=
  readReg c s (zext32 s.timer.ints)

/-- TIMER.INTS.W (44_timer.md R335). -/
def execTimerIntsW (c : CoreId) (_v : Word) (s : State) : Result :=
  ignoreReg c s

/-- TIMER.RESERVED (44_timer.md R336). -/
def execTimerReserved (c : CoreId) (dir : Dir) (off : BitVec 12) (v : Word) (s : State) : Result :=
  reservedAccess .timer c dir off v s

/-- CLOCK.ADVANCE (44_timer.md R340): the clock moves and every alarm that reaches its target fires, in one operation. A clock that
moves back is refused (30_encoding.md R126). -/
def execClockAdvance (t : Time) (s : State) : Result :=
  if t < s.clockNow then .refused .clockBackwards
  else .next (((s.setClock t).setTimer (s.timer.evalAlarms t)).setReply .done)

end Sys2Proof.Machine
end

