-- ==== Sys2Proof/Machine/Uart.lean ====
section
/-! DEFINITION. The meanings of the UART operations (42_uart.md). -/

namespace Sys2Proof.Machine

/-- UART.DR.R (42_uart.md R200): pop a byte, or a draw and no other change when the FIFO is empty. -/
def execUartDrR (c : CoreId) (u : Nat) (s : State) : Result :=
  withUart s u fun U =>
    if 0 < U.fifoLen then .next ((s.setUart u U.popData).answer c (zext32 U.oldest))
    else .next (s.answerDraw c)

/-- UART.DR.W (42_uart.md R201): send the byte and set the TX bit when UARTEN and TXE are set; else the byte is lost. -/
def execUartDrW (c : CoreId) (u : Nat) (v : Word) (s : State) : Result :=
  withUart s u fun U =>
    if U.txEnabled then .next (((s.send u (lowBits 8 v)).setUart u (U.raise uartTxBit)).complete c)
    else .next (s.complete c)

/-- UART.RSR.R (42_uart.md R202): no per-byte status is kept. -/
def execUartRsrR (c : CoreId) (u : Nat) (s : State) : Result := readUart c u s fun _ => 0

/-- UART.ECR.W (42_uart.md R204): there is no error status to clear. -/
def execUartEcrW (c : CoreId) (u : Nat) (_v : Word) (s : State) : Result := ignoreUart c u s

/-- UART.FR.R (42_uart.md R205). -/
def execUartFrR (c : CoreId) (u : Nat) (s : State) : Result := readUart c u s fun U => U.flagWord

/-- UART.FR.W (42_uart.md R206). -/
def execUartFrW (c : CoreId) (u : Nat) (_v : Word) (s : State) : Result := ignoreUart c u s

/-- UART.ILPR.R (42_uart.md R207). -/
def execUartIlprR (c : CoreId) (u : Nat) (s : State) : Result := readUart c u s fun U => zext32 U.ilpr

/-- UART.ILPR.W (42_uart.md R208). -/
def execUartIlprW (c : CoreId) (u : Nat) (v : Word) (s : State) : Result :=
  writeUart c u s fun U => { U with ilpr := lowBits 8 v }

/-- UART.IBRD.R (42_uart.md R209). -/
def execUartIbrdR (c : CoreId) (u : Nat) (s : State) : Result := readUart c u s fun U => zext32 U.ibrd

/-- UART.IBRD.W (42_uart.md R210). -/
def execUartIbrdW (c : CoreId) (u : Nat) (v : Word) (s : State) : Result :=
  writeUart c u s fun U => { U with ibrd := lowBits 16 v }

/-- UART.FBRD.R (42_uart.md R211). -/
def execUartFbrdR (c : CoreId) (u : Nat) (s : State) : Result := readUart c u s fun U => zext32 U.fbrd

/-- UART.FBRD.W (42_uart.md R212). -/
def execUartFbrdW (c : CoreId) (u : Nat) (v : Word) (s : State) : Result :=
  writeUart c u s fun U => { U with fbrd := lowBits 6 v }

/-- UART.LCR_H.R (42_uart.md R213). -/
def execUartLcrhR (c : CoreId) (u : Nat) (s : State) : Result := readUart c u s fun U => zext32 U.lcrH

/-- UART.LCR_H.W (42_uart.md R214). -/
def execUartLcrhW (c : CoreId) (u : Nat) (v : Word) (s : State) : Result :=
  writeUart c u s fun U => { U with lcrH := lowBits 8 v }

/-- UART.CR.R (42_uart.md R215). -/
def execUartCrR (c : CoreId) (u : Nat) (s : State) : Result := readUart c u s fun U => zext32 U.cr

/-- UART.CR.W (42_uart.md R216). -/
def execUartCrW (c : CoreId) (u : Nat) (v : Word) (s : State) : Result :=
  writeUart c u s fun U => { U with cr := lowBits 16 v &&& crMask }

/-- UART.IFLS.R (42_uart.md R217). -/
def execUartIflsR (c : CoreId) (u : Nat) (s : State) : Result := readUart c u s fun U => zext32 U.ifls

/-- UART.IFLS.W (42_uart.md R218). -/
def execUartIflsW (c : CoreId) (u : Nat) (v : Word) (s : State) : Result :=
  writeUart c u s fun U => { U with ifls := lowBits 6 v }

/-- UART.IMSC.R (42_uart.md R219). -/
def execUartImscR (c : CoreId) (u : Nat) (s : State) : Result := readUart c u s fun U => zext32 U.imsc

/-- UART.IMSC.W (42_uart.md R221). -/
def execUartImscW (c : CoreId) (u : Nat) (v : Word) (s : State) : Result :=
  writeUart c u s fun U => { U with imsc := lowBits 11 v }

/-- UART.RIS.R (42_uart.md R222). -/
def execUartRisR (c : CoreId) (u : Nat) (s : State) : Result := readUart c u s fun U => zext32 U.ris

/-- UART.RIS.W (42_uart.md R223). -/
def execUartRisW (c : CoreId) (u : Nat) (_v : Word) (s : State) : Result := ignoreUart c u s

/-- UART.MIS.R (42_uart.md R224). -/
def execUartMisR (c : CoreId) (u : Nat) (s : State) : Result := readUart c u s fun U => zext32 U.mis

/-- UART.MIS.W (42_uart.md R225). -/
def execUartMisW (c : CoreId) (u : Nat) (_v : Word) (s : State) : Result := ignoreUart c u s

/-- UART.ICR.R (42_uart.md R226). -/
def execUartIcrR (c : CoreId) (u : Nat) (s : State) : Result := readUart c u s fun _ => 0

/-- UART.ICR.W (42_uart.md R227): write-1-to-clear of the raw bits. -/
def execUartIcrW (c : CoreId) (u : Nat) (v : Word) (s : State) : Result :=
  writeUart c u s fun U => U.clear (lowBits 11 v)

/-- UART.DMACR.R (42_uart.md R228). -/
def execUartDmacrR (c : CoreId) (u : Nat) (s : State) : Result := readUart c u s fun U => zext32 U.dmacr

/-- UART.DMACR.W (42_uart.md R229). -/
def execUartDmacrW (c : CoreId) (u : Nat) (v : Word) (s : State) : Result :=
  writeUart c u s fun U => { U with dmacr := lowBits 3 v }

/-- UART.RESERVED (42_uart.md R230). -/
def execUartReserved (c : CoreId) (u : Nat) (dir : Dir) (off : BitVec 12) (v : Word) (s : State) : Result :=
  withUart s u fun _ => reservedAccess (.uart u) c dir off v s

/-- UART.RX (42_uart.md R231): the whole delivery in one operation. An empty delivery, which the decoder refuses, would change
nothing. -/
def execUartRx (u : Nat) (bytes : List Byte) (s : State) : Result :=
  withUart s u fun U => .next ((s.setUart u (U.receiveAll bytes)).setReply .done)

/-- UART.CAPACITY (42_uart.md R232). -/
def execUartCapacity (u : Nat) (s : State) : Result :=
  withUart s u fun U => .next (s.setReply (.capacity U.rxCapacity))

end Sys2Proof.Machine
end

