-- ==== Sys2Proof/Machine/DeviceAccess.lean ====
section
/-! DEFINITION. A register access at a device: the row of the opcode table its selector names is run (41_bus.md R150 `dev_read`,
R151 `dev_write`). -/

namespace Sys2Proof.Machine

/-- Run a device register operation. A selector never names anything else. -/
def runDevice (i : Instr) (s : State) : Result :=
  match i with
  | .busR8 _ _ => .refused .notADeviceOperation
  | .busR16 _ _ => .refused .notADeviceOperation
  | .busR32 _ _ => .refused .notADeviceOperation
  | .busW8 _ _ _ => .refused .notADeviceOperation
  | .busW16 _ _ _ => .refused .notADeviceOperation
  | .busW32 _ _ _ => .refused .notADeviceOperation
  | .uartDrR c u => execUartDrR c u s
  | .uartDrW c u v => execUartDrW c u v s
  | .uartRsrR c u => execUartRsrR c u s
  | .uartEcrW c u v => execUartEcrW c u v s
  | .uartFrR c u => execUartFrR c u s
  | .uartFrW c u v => execUartFrW c u v s
  | .uartIlprR c u => execUartIlprR c u s
  | .uartIlprW c u v => execUartIlprW c u v s
  | .uartIbrdR c u => execUartIbrdR c u s
  | .uartIbrdW c u v => execUartIbrdW c u v s
  | .uartFbrdR c u => execUartFbrdR c u s
  | .uartFbrdW c u v => execUartFbrdW c u v s
  | .uartLcrhR c u => execUartLcrhR c u s
  | .uartLcrhW c u v => execUartLcrhW c u v s
  | .uartCrR c u => execUartCrR c u s
  | .uartCrW c u v => execUartCrW c u v s
  | .uartIflsR c u => execUartIflsR c u s
  | .uartIflsW c u v => execUartIflsW c u v s
  | .uartImscR c u => execUartImscR c u s
  | .uartImscW c u v => execUartImscW c u v s
  | .uartRisR c u => execUartRisR c u s
  | .uartRisW c u v => execUartRisW c u v s
  | .uartMisR c u => execUartMisR c u s
  | .uartMisW c u v => execUartMisW c u v s
  | .uartIcrR c u => execUartIcrR c u s
  | .uartIcrW c u v => execUartIcrW c u v s
  | .uartDmacrR c u => execUartDmacrR c u s
  | .uartDmacrW c u v => execUartDmacrW c u v s
  | .uartReserved c u dir off v => execUartReserved c u dir off v s
  | .gpioStatusR c p => execGpioStatusR c p s
  | .gpioStatusW c p v => execGpioStatusW c p v s
  | .gpioCtrlR c p => execGpioCtrlR c p s
  | .gpioCtrlW c p v => execGpioCtrlW c p v s
  | .gpioIntrR c r => execGpioIntrR c r s
  | .gpioIntrW c r v => execGpioIntrW c r v s
  | .gpioP0inteR c r => execGpioP0inteR c r s
  | .gpioP0inteW c r v => execGpioP0inteW c r v s
  | .gpioP0intsR c r => execGpioP0intsR c r s
  | .gpioP0intsW c r v => execGpioP0intsW c r v s
  | .gpioP1inteR c r => execGpioP1inteR c r s
  | .gpioP1inteW c r v => execGpioP1inteW c r v s
  | .gpioP1intsR c r => execGpioP1intsR c r s
  | .gpioP1intsW c r v => execGpioP1intsW c r v s
  | .gpioReserved c dir off v => execGpioReserved c dir off v s
  | .timerTimehwR c => execTimerTimehwR c s
  | .timerTimehwW c v => execTimerTimehwW c v s
  | .timerTimelwR c => execTimerTimelwR c s
  | .timerTimelwW c v => execTimerTimelwW c v s
  | .timerTimehrR c => execTimerTimehrR c s
  | .timerTimehrW c v => execTimerTimehrW c v s
  | .timerTimelrR c => execTimerTimelrR c s
  | .timerTimelrW c v => execTimerTimelrW c v s
  | .timerAlarmR c k => execTimerAlarmR c k s
  | .timerAlarmW c k v => execTimerAlarmW c k v s
  | .timerArmedR c => execTimerArmedR c s
  | .timerArmedW c v => execTimerArmedW c v s
  | .timerRawhR c => execTimerRawhR c s
  | .timerRawhW c v => execTimerRawhW c v s
  | .timerRawlR c => execTimerRawlR c s
  | .timerRawlW c v => execTimerRawlW c v s
  | .timerPauseR c => execTimerPauseR c s
  | .timerPauseW c v => execTimerPauseW c v s
  | .timerIntrR c => execTimerIntrR c s
  | .timerIntrW c v => execTimerIntrW c v s
  | .timerInteR c => execTimerInteR c s
  | .timerInteW c v => execTimerInteW c v s
  | .timerIntsR c => execTimerIntsR c s
  | .timerIntsW c v => execTimerIntsW c v s
  | .timerReserved c dir off v => execTimerReserved c dir off v s
  | .uartRx _ _ => .refused .notADeviceOperation
  | .uartCapacity _ => .refused .notADeviceOperation
  | .gpioReport _ _ => .refused .notADeviceOperation
  | .clockAdvance _ => .refused .notADeviceOperation
  | .hostReset => .refused .notADeviceOperation
  | .hostSnapshot => .refused .notADeviceOperation
  | .hostRestore _ => .refused .notADeviceOperation

/-- `dev_read` (41_bus.md R150). -/
def devRead (port : DevPort) (c : CoreId) (off : BitVec 12) (s : State) : Result :=
  runDevice (decodeSel port (selector .read off) c 0) s

/-- `dev_write` (41_bus.md R151). -/
def devWrite (port : DevPort) (c : CoreId) (off : BitVec 12) (v : Word) (s : State) : Result :=
  runDevice (decodeSel port (selector .write off) c v) s

end Sys2Proof.Machine
end

