-- ==== Sys2Proof/Machine/Bus.lean ====
section
/-! DEFINITION. The bus transactions (41_bus.md). -/

namespace Sys2Proof.Machine

/-- The read path (41_bus.md R150). -/
def busRead (c : CoreId) (addr : Word) (w : BusWidth) (s : State) : Result :=
  match decodeAddr s.cfg addr w with
  | .err kind => .next (s.guestError kind c .read addr w 0)
  | .stub => .next (s.guestError .stub c .read addr w 0)
  | .mem m off => .next (s.answer c (s.memRead m off w))
  | .dev port off => devRead port c off s

/-- The write path (41_bus.md R151); only SRAM takes a write (R155). -/
def busWrite (c : CoreId) (addr : Word) (w : BusWidth) (v : Word) (s : State) : Result :=
  match decodeAddr s.cfg addr w with
  | .err kind => .next (s.guestError kind c .write addr w v)
  | .stub => .next (s.guestError .stub c .write addr w v)
  | .mem .sram off => .next ((s.memWrite off w v).complete c)
  | .mem _ _ => .next (s.guestError .readOnlyRegion c .write addr w v)
  | .dev port off => devWrite port c off v s

/-- BUS.R8 (41_bus.md R160). -/
def execBusR8 (c : CoreId) (addr : Word) (s : State) : Result := busRead c addr .byte s

/-- BUS.R16 (41_bus.md R161). -/
def execBusR16 (c : CoreId) (addr : Word) (s : State) : Result := busRead c addr .half s

/-- BUS.R32 (41_bus.md R162). -/
def execBusR32 (c : CoreId) (addr : Word) (s : State) : Result := busRead c addr .word s

/-- BUS.W8 (41_bus.md R163). -/
def execBusW8 (c : CoreId) (addr : Word) (v : Word) (s : State) : Result := busWrite c addr .byte v s

/-- BUS.W16 (41_bus.md R164). -/
def execBusW16 (c : CoreId) (addr : Word) (v : Word) (s : State) : Result := busWrite c addr .half v s

/-- BUS.W32 (41_bus.md R165). -/
def execBusW32 (c : CoreId) (addr : Word) (v : Word) (s : State) : Result := busWrite c addr .word v s

end Sys2Proof.Machine
end

