-- ==== Sys2Proof/Machine/HostEvents.lean ====
section
/-! DEFINITION. Machine reset, snapshot and restore (70_reset_and_hazards.md R440, R450, R451). -/

namespace Sys2Proof.Machine

/-- Every device at its reset column; the clock, RAM, diagnostic log and sent bytes are kept (70_reset_and_hazards.md R440). -/
def State.resetDevices (s : State) : State :=
  { s with uarts := List.replicate s.cfg.uartCount Uart.reset, gpio := Gpio.reset, timer := Timer.reset s.clockNow }

/-- HOST.RESET (70_reset_and_hazards.md R440). -/
def execHostReset (s : State) : Result := .next (s.resetDevices.setReply .done)

/-- The snapshot of a state: the counter stands in place of base and frozen (70_reset_and_hazards.md R450). -/
def State.takeSnapshot (s : State) : Snapshot where
  uarts := s.uarts
  gpio := s.gpio
  paused := s.timer.paused
  latch := s.timer.latch
  target := s.timer.target
  armed := s.timer.armed
  intr := s.timer.intr
  inte := s.timer.inte
  counter := s.counter

/-- HOST.SNAPSHOT (70_reset_and_hazards.md R450): the record goes to the host; no state of the core changes. -/
def execHostSnapshot (s : State) : Result := .next (s.setReply (.snapshot s.takeSnapshot))

/-- A UART's fields as they are stored again: every field is copied, the write cursor as the record has it (70_reset_and_hazards.md
R451; log entry 13), but bits UARTCR does not have are not stored (10_state.md R37; log entry 11). -/
def Uart.restored (U : Uart) : Uart :=
  { U with cr := U.cr &&& crMask }

/-- The timer's fields copied from a snapshot, the counter made to read the record's, before the alarm evaluation
(70_reset_and_hazards.md R451). The field that does not carry the counter keeps its value. -/
def Timer.restore (t : Timer) (clockNow : Time) (snap : Snapshot) : Timer :=
  { t with
    paused := snap.paused
    latch := snap.latch
    target := snap.target
    armed := snap.armed
    intr := snap.intr
    inte := snap.inte
    frozen := if snap.paused then snap.counter else t.frozen
    base := if snap.paused then t.base else clockNow - snap.counter }

/-- Every device field from a snapshot, then the alarm evaluation (70_reset_and_hazards.md R451). -/
def State.restoreDevices (s : State) (snap : Snapshot) : State :=
  { s with
    uarts := snap.uarts.map Uart.restored
    gpio := snap.gpio
    timer := (s.timer.restore s.clockNow snap).evalAlarms s.clockNow }

/-- HOST.RESTORE (70_reset_and_hazards.md R451). A record that does not fit, or that is for another number of UARTs, is refused
(log entry 12). -/
def execHostRestore (snap : Snapshot) (s : State) : Result :=
  if snapshotFits snap && snap.uarts.length == s.cfg.uartCount then .next ((s.restoreDevices snap).setReply .done)
  else .refused .snapshotMisfit

end Sys2Proof.Machine
end

