-- ==== Sys2Proof/Machine/Dispatch.lean ====
section
/-! DEFINITION. One arm for each operation: a direct call of its meaning. -/

namespace Sys2Proof.Machine

def exec (i : Instr) (s : State) : Host.Outcome State Fault Refusal :=
  match i with
  | .busR8 c addr => Sys2Proof.Machine.execBusR8 c addr s
  | .busR16 c addr => Sys2Proof.Machine.execBusR16 c addr s
  | .busR32 c addr => Sys2Proof.Machine.execBusR32 c addr s
  | .busW8 c addr v => Sys2Proof.Machine.execBusW8 c addr v s
  | .busW16 c addr v => Sys2Proof.Machine.execBusW16 c addr v s
  | .busW32 c addr v => Sys2Proof.Machine.execBusW32 c addr v s
  | .uartDrR c u => Sys2Proof.Machine.execUartDrR c u s
  | .uartDrW c u v => Sys2Proof.Machine.execUartDrW c u v s
  | .uartRsrR c u => Sys2Proof.Machine.execUartRsrR c u s
  | .uartEcrW c u v => Sys2Proof.Machine.execUartEcrW c u v s
  | .uartFrR c u => Sys2Proof.Machine.execUartFrR c u s
  | .uartFrW c u v => Sys2Proof.Machine.execUartFrW c u v s
  | .uartIlprR c u => Sys2Proof.Machine.execUartIlprR c u s
  | .uartIlprW c u v => Sys2Proof.Machine.execUartIlprW c u v s
  | .uartIbrdR c u => Sys2Proof.Machine.execUartIbrdR c u s
  | .uartIbrdW c u v => Sys2Proof.Machine.execUartIbrdW c u v s
  | .uartFbrdR c u => Sys2Proof.Machine.execUartFbrdR c u s
  | .uartFbrdW c u v => Sys2Proof.Machine.execUartFbrdW c u v s
  | .uartLcrhR c u => Sys2Proof.Machine.execUartLcrhR c u s
  | .uartLcrhW c u v => Sys2Proof.Machine.execUartLcrhW c u v s
  | .uartCrR c u => Sys2Proof.Machine.execUartCrR c u s
  | .uartCrW c u v => Sys2Proof.Machine.execUartCrW c u v s
  | .uartIflsR c u => Sys2Proof.Machine.execUartIflsR c u s
  | .uartIflsW c u v => Sys2Proof.Machine.execUartIflsW c u v s
  | .uartImscR c u => Sys2Proof.Machine.execUartImscR c u s
  | .uartImscW c u v => Sys2Proof.Machine.execUartImscW c u v s
  | .uartRisR c u => Sys2Proof.Machine.execUartRisR c u s
  | .uartRisW c u v => Sys2Proof.Machine.execUartRisW c u v s
  | .uartMisR c u => Sys2Proof.Machine.execUartMisR c u s
  | .uartMisW c u v => Sys2Proof.Machine.execUartMisW c u v s
  | .uartIcrR c u => Sys2Proof.Machine.execUartIcrR c u s
  | .uartIcrW c u v => Sys2Proof.Machine.execUartIcrW c u v s
  | .uartDmacrR c u => Sys2Proof.Machine.execUartDmacrR c u s
  | .uartDmacrW c u v => Sys2Proof.Machine.execUartDmacrW c u v s
  | .uartReserved c u dir off v => Sys2Proof.Machine.execUartReserved c u dir off v s
  | .gpioStatusR c p => Sys2Proof.Machine.execGpioStatusR c p s
  | .gpioStatusW c p v => Sys2Proof.Machine.execGpioStatusW c p v s
  | .gpioCtrlR c p => Sys2Proof.Machine.execGpioCtrlR c p s
  | .gpioCtrlW c p v => Sys2Proof.Machine.execGpioCtrlW c p v s
  | .gpioIntrR c r => Sys2Proof.Machine.execGpioIntrR c r s
  | .gpioIntrW c r v => Sys2Proof.Machine.execGpioIntrW c r v s
  | .gpioP0inteR c r => Sys2Proof.Machine.execGpioP0inteR c r s
  | .gpioP0inteW c r v => Sys2Proof.Machine.execGpioP0inteW c r v s
  | .gpioP0intsR c r => Sys2Proof.Machine.execGpioP0intsR c r s
  | .gpioP0intsW c r v => Sys2Proof.Machine.execGpioP0intsW c r v s
  | .gpioP1inteR c r => Sys2Proof.Machine.execGpioP1inteR c r s
  | .gpioP1inteW c r v => Sys2Proof.Machine.execGpioP1inteW c r v s
  | .gpioP1intsR c r => Sys2Proof.Machine.execGpioP1intsR c r s
  | .gpioP1intsW c r v => Sys2Proof.Machine.execGpioP1intsW c r v s
  | .gpioReserved c dir off v => Sys2Proof.Machine.execGpioReserved c dir off v s
  | .timerTimehwR c => Sys2Proof.Machine.execTimerTimehwR c s
  | .timerTimehwW c v => Sys2Proof.Machine.execTimerTimehwW c v s
  | .timerTimelwR c => Sys2Proof.Machine.execTimerTimelwR c s
  | .timerTimelwW c v => Sys2Proof.Machine.execTimerTimelwW c v s
  | .timerTimehrR c => Sys2Proof.Machine.execTimerTimehrR c s
  | .timerTimehrW c v => Sys2Proof.Machine.execTimerTimehrW c v s
  | .timerTimelrR c => Sys2Proof.Machine.execTimerTimelrR c s
  | .timerTimelrW c v => Sys2Proof.Machine.execTimerTimelrW c v s
  | .timerAlarmR c k => Sys2Proof.Machine.execTimerAlarmR c k s
  | .timerAlarmW c k v => Sys2Proof.Machine.execTimerAlarmW c k v s
  | .timerArmedR c => Sys2Proof.Machine.execTimerArmedR c s
  | .timerArmedW c v => Sys2Proof.Machine.execTimerArmedW c v s
  | .timerRawhR c => Sys2Proof.Machine.execTimerRawhR c s
  | .timerRawhW c v => Sys2Proof.Machine.execTimerRawhW c v s
  | .timerRawlR c => Sys2Proof.Machine.execTimerRawlR c s
  | .timerRawlW c v => Sys2Proof.Machine.execTimerRawlW c v s
  | .timerPauseR c => Sys2Proof.Machine.execTimerPauseR c s
  | .timerPauseW c v => Sys2Proof.Machine.execTimerPauseW c v s
  | .timerIntrR c => Sys2Proof.Machine.execTimerIntrR c s
  | .timerIntrW c v => Sys2Proof.Machine.execTimerIntrW c v s
  | .timerInteR c => Sys2Proof.Machine.execTimerInteR c s
  | .timerInteW c v => Sys2Proof.Machine.execTimerInteW c v s
  | .timerIntsR c => Sys2Proof.Machine.execTimerIntsR c s
  | .timerIntsW c v => Sys2Proof.Machine.execTimerIntsW c v s
  | .timerReserved c dir off v => Sys2Proof.Machine.execTimerReserved c dir off v s
  | .uartRx u bytes => Sys2Proof.Machine.execUartRx u bytes s
  | .uartCapacity u => Sys2Proof.Machine.execUartCapacity u s
  | .gpioReport p lvl => Sys2Proof.Machine.execGpioReport p lvl s
  | .clockAdvance t => Sys2Proof.Machine.execClockAdvance t s
  | .hostReset => Sys2Proof.Machine.execHostReset s
  | .hostSnapshot => Sys2Proof.Machine.execHostSnapshot s
  | .hostRestore snap => Sys2Proof.Machine.execHostRestore snap s

end Sys2Proof.Machine
end

