-- ==== Sys2Proof/Machine/Step.lean ====
section
/-! DEFINITION. One step: the operation at the head of the queue runs to its end (00_scope.md R11, R12). -/

namespace Sys2Proof.Machine

/-- One step (00_scope.md R12). The order of the agents is the order of `pending` (R11). With nothing issued no agent has an enabled
step, and nothing changes (log entry 2). A record the decoder refuses is accepted by no step (30_encoding.md R126). -/
def step (s : State) : Host.Outcome State Fault Refusal :=
  match s.pending with
  | [] => .next s
  | op :: rest =>
    match decode op with
    | .ok i => exec i (s.setPending rest)
    | .error e => .refused (.illFormed e)

/-- The state with a table word's operation next in line (log entry 10). -/
def State.withFetchWord (s : State) (nbits w : Nat) : State := s.setPending (tableOp nbits w :: s.pending)

end Sys2Proof.Machine
end

