-- ==== Sys2Proof/Safety.lean ====
section
/-! DEFINITION. What holds of every state a run reaches, in the terms the statements use. -/

namespace Sys2Proof.Machine

/-- A UART within its widths: `0 ≤ length ≤ capacity` (10_state.md R34), and UARTCR holds only the bits it stores (R37). -/
abbrev Uart.inRange (U : Uart) : Prop := U.fifoLen ≤ fifoCapacity ∧ U.cr &&& ~~~crMask = 0

/-- The GPIO registers 3 hold 24 bits (10_state.md R51). -/
abbrev Gpio.inRange (g : Gpio) : Prop :=
  g.intr[3] &&& ~~~(intrMask 3) = 0 ∧ g.inte0[3] &&& ~~~(intrMask 3) = 0 ∧ g.inte1[3] &&& ~~~(intrMask 3) = 0

/-- No alarm is armed at or past its target (44_timer.md R310). -/
abbrev Timer.noneOverdue (t : Timer) (clockNow : Time) : Prop :=
  ∀ k : Fin 4, t.armed.getLsbD k.val = true → t.counter clockNow < t.target[k]

/-- SRAM in canonical form, with no offset outside it (10_state.md R71). -/
abbrev State.sramOk (s : State) : Prop := s.sram.wf ∧ ∀ cell ∈ s.sram, cell.1 < s.cfg.sramSize

/-- The configuration passes the composition checks, and there is one UART and one send list for each base (00_scope.md R9,
10_state.md R32). -/
abbrev State.composed (s : State) : Prop :=
  s.cfg.ok = true ∧ s.uarts.length = s.cfg.uartCount ∧ s.txLog.length = s.cfg.uartCount

/-- The write cursor is `(fifo_rd + fifo_len) mod 32` (10_state.md R34, second sentence). -/
abbrev Uart.cursorsAgree (U : Uart) : Prop := U.fifoWr = U.fifoRd + BitVec.ofNat 5 U.fifoLen

/-- Every UART's cursors agree. -/
abbrev State.cursorsAgree (s : State) : Prop := ∀ U ∈ s.uarts, U.cursorsAgree

/-- The operation the next step runs is no restore of a record whose cursors disagree (such a record fits its widths and is copied:
70_reset_and_hazards.md R451, log entry 13). -/
abbrev State.nextKeepsCursors (s : State) : Prop :=
  ∀ (op : RawOp) (rest : List RawOp) (snap : Snapshot), s.pending = op :: rest → decode op = .ok (.hostRestore snap) →
    ∀ U ∈ snap.uarts, U.cursorsAgree

/-- The states a run from power-on reaches (10_state.md R34) by any operations on any operands, its restores taking records that
HOST.SNAPSHOT made of such a state, or host's records whose write cursor is the index of the next free slot (R33). A host's record may
be one no run makes (70_reset_and_hazards.md R451 corner case 1; log entry 13). -/
inductive State.Reachable : State → Prop where
  | powerOn (cfg : Config) (x : Time) (m : Memory) (s : State) : State.init cfg x m = some s → State.Reachable s
  | operation (i : Instr) (s t : State) : State.Reachable s → (∀ snap, i ≠ .hostRestore snap) → exec i s = .next t → State.Reachable t
  | restoredSnapshot (r s t : State) : State.Reachable r → State.Reachable s →
      exec (.hostRestore r.takeSnapshot) s = .next t → State.Reachable t
  | restoredRecord (snap : Snapshot) (s t : State) : State.Reachable s → (∀ U ∈ snap.uarts, U.cursorsAgree) →
      exec (.hostRestore snap) s = .next t → State.Reachable t

/-- The invariant of the machine. -/
structure State.Inv (s : State) : Prop where
  composed : s.composed
  sram : s.sramOk
  uarts : ∀ U ∈ s.uarts, U.inRange
  gpio : s.gpio.inRange
  timer : s.timer.noneOverdue s.clockNow

/-- The bytes a FIFO holds, oldest first: `fifo_len` entries from the read cursor on (10_state.md R35, 42_uart.md R220). -/
def Uart.held (U : Uart) : List Byte :=
  (List.range U.fifoLen).map fun i => U.fifoBuf[(U.fifoRd + BitVec.ofNat 5 i).toNat]'(U.fifoRd + BitVec.ofNat 5 i).isLt

/-- Alarm evaluation at a counter value, alarm by alarm (44_timer.md R310): an alarm armed at or below the counter is fired and
disarmed, and no other alarm changes. -/
abbrev Timer.firedAt (before after : Timer) (now : Time) : Prop :=
  ∀ k : Fin 4,
    after.armed.getLsbD k.val = (before.armed.getLsbD k.val && decide (now < before.target[k])) ∧
    after.intr.getLsbD k.val = (before.intr.getLsbD k.val || before.armed.getLsbD k.val && decide (before.target[k] ≤ now))

/-- The values `n` data reads of a UART return, one after the other (42_uart.md R200). -/
def State.drain (c : CoreId) (u : Nat) : Nat → State → Option (List Word)
  | 0, _ => some []
  | n + 1, s =>
    match exec (.uartDrR c u) s with
    | .next t =>
      match t.reply with
      | .value _ v => (State.drain c u n t).map (v :: ·)
      | _ => none
    | .refused _ => none

end Sys2Proof.Machine
end

