-- ==== Sys2Proof/Certificates/Slice0/Obligations.lean ====
section
/-! DEFINITION. The statements for the provers. -/

open Sys2Proof Sys2Proof.Machine

/-! Decoding and stepping. -/

/-- A record at the head of the queue is decoded and its operation run on the state with the rest of the queue; a record the decoder
refuses stops the step by name; an empty queue leaves the state as it is (the queue is the model's choice, log entry 2). -/
def Obligations.StepRunsDecodedOperation : Prop :=
  (∀ (s : State) (op : RawOp) (rest : List RawOp) (i : Instr), s.pending = op :: rest → decode op = .ok i →
    step s = exec i { s with pending := rest }) ∧
  (∀ (s : State) (op : RawOp) (rest : List RawOp) (e : DecodeError), s.pending = op :: rest → decode op = .error e →
    step s = .refused (.illFormed e)) ∧
  (∀ s : State, s.pending = [] → step s = .next s)

/-- A few records written out from 30_encoding.md R120 to R132 and 95_test_vectors.md decode to the operation they stand for. -/
def Obligations.WrittenOutRecordsDecode : Prop :=
  decode (.txn ⟨0, 1, 0b10, 0x40034030, 0x301⟩) = .ok (.busW32 .core0 0x40034030 0x301) ∧
  decode (.txn ⟨1, 0, 0b01, 0x20000002, 7⟩) = .ok (.busR16 .core1 0x20000002) ∧
  decode (.devsel ⟨.uart 1, 0b1000000111000, 0, 0x20⟩) = .ok (.uartImscW .core0 1 0x20) ∧
  decode (.devsel ⟨.gpio, 0b0000000101100, 1, 9⟩) = .ok (.gpioCtrlR .core1 5) ∧
  decode (.devsel ⟨.gpio, 0b1000011110100, 0, 3⟩) = .ok (.gpioIntrW .core0 1 3) ∧
  decode (.devsel ⟨.timer, 0b1000000011100, 0, 200⟩) = .ok (.timerAlarmW .core0 3 200) ∧
  decode (.devsel ⟨.timer, 0b0000000101100, 0, 0⟩) = .ok (.timerReserved .core0 .read 0x02C 0) ∧
  decode (.evt { Evt.zeros with code := 0x3, pin := 5, lvl := 1 }) = .ok (.gpioReport 5 true) ∧
  decode (.evt { Evt.zeros with code := 0x4, t := 0x100000005 }) = .ok (.clockAdvance 0x100000005)

/-- Decoding the record of a well-formed operation gives the operation back, with every operand at every value. -/
def Obligations.DecodeOfEncodeIsIdentity : Prop :=
  ∀ i : Instr, i.wellFormed = true → decode (encode i) = .ok i

/-- Whatever record an agent issues, an operation the decoder gives is well formed: a RESERVED row only where no register is
(30_encoding.md R125), no empty delivery (R126), and a snapshot that fits its widths (70_reset_and_hazards.md R451 with 10_state.md
R33 and R50; log entry 12). -/
def Obligations.DecodedOperationsAreWellFormed : Prop :=
  ∀ (op : RawOp) (i : Instr), decode op = .ok i → i.wellFormed = true

/-- The illegal encodings of 30_encoding.md R126 are refused, the state-dependent ones by the operation. -/
def Obligations.IllegalInputsAreRefused : Prop :=
  (∀ t : Txn, t.wcode = 0b11 → decode (.txn t) = .error .illegalWidth) ∧
  (∀ e : Evt, e.code = 0 ∨ 8 ≤ e.code → decode (.evt e) = .error .illegalEventCode) ∧
  (∀ e : Evt, e.code = 0x3 → 29 < e.pin → decode (.evt e) = .error .pinOutOfRange) ∧
  (∀ e : Evt, e.code = 0x1 → e.bytes = [] → decode (.evt e) = .error .emptyDelivery) ∧
  (∀ (s : State) (t : Time), t < s.clockNow → exec (.clockAdvance t) s = .refused .clockBackwards) ∧
  (∀ (s : State) (u : Nat) (bytes : List Byte), s.uarts.length = s.cfg.uartCount → s.cfg.uartCount ≤ u →
    exec (.uartRx u bytes) s = .refused .noSuchUart ∧ exec (.uartCapacity u) s = .refused .noSuchUart)

/-- A selector names the RESERVED row of its device exactly when its offset is not in the device's register map
(10_state.md R36, R52, R62; 30_encoding.md R127). -/
def Obligations.ReservedRowIsExactlyTheUnlistedOffsets : Prop :=
  ∀ (u : Nat) (dir : Dir) (off : BitVec 12) (c : CoreId) (v : Word),
    ((∃ w, decodeSel (.uart u) (selector dir off) c v = .uartReserved c u dir off w) ↔ uartRegisterOffset off = false) ∧
    ((∃ w, decodeSel .gpio (selector dir off) c v = .gpioReserved c dir off w) ↔ gpioRegisterOffset off = false) ∧
    ((∃ w, decodeSel .timer (selector dir off) c v = .timerReserved c dir off w) ↔ timerRegisterOffset off = false)

/-! UART. -/

/-- The stored UART registers ILPR, IBRD, FBRD and LCR_H: encoding, read, write and reset value; nothing else changes. -/
def Obligations.UartDivisorAndLineRegisters : Prop :=
  ∀ (c : CoreId) (u : Nat) (v : Word) (s : State) (U : Uart), s.uarts[u]? = some U →
    (decodeSel (.uart u) 0x0020 c v = .uartIlprR c u ∧ Uart.reset.ilpr = 0 ∧
      exec (.uartIlprR c u) s = .next { s with reply := .value c (U.ilpr.setWidth 32) }) ∧
    (decodeSel (.uart u) 0x1020 c v = .uartIlprW c u v ∧
      exec (.uartIlprW c u v) s =
        .next { s with uarts := s.uarts.set u { U with ilpr := v.extractLsb' 0 8 }, reply := .written c }) ∧
    (decodeSel (.uart u) 0x0024 c v = .uartIbrdR c u ∧ Uart.reset.ibrd = 0 ∧
      exec (.uartIbrdR c u) s = .next { s with reply := .value c (U.ibrd.setWidth 32) }) ∧
    (decodeSel (.uart u) 0x1024 c v = .uartIbrdW c u v ∧
      exec (.uartIbrdW c u v) s =
        .next { s with uarts := s.uarts.set u { U with ibrd := v.extractLsb' 0 16 }, reply := .written c }) ∧
    (decodeSel (.uart u) 0x0028 c v = .uartFbrdR c u ∧ Uart.reset.fbrd = 0 ∧
      exec (.uartFbrdR c u) s = .next { s with reply := .value c (U.fbrd.setWidth 32) }) ∧
    (decodeSel (.uart u) 0x1028 c v = .uartFbrdW c u v ∧
      exec (.uartFbrdW c u v) s =
        .next { s with uarts := s.uarts.set u { U with fbrd := v.extractLsb' 0 6 }, reply := .written c }) ∧
    (decodeSel (.uart u) 0x002C c v = .uartLcrhR c u ∧ Uart.reset.lcrH = 0 ∧
      exec (.uartLcrhR c u) s = .next { s with reply := .value c (U.lcrH.setWidth 32) }) ∧
    (decodeSel (.uart u) 0x102C c v = .uartLcrhW c u v ∧
      exec (.uartLcrhW c u v) s =
        .next { s with uarts := s.uarts.set u { U with lcrH := v.extractLsb' 0 8 }, reply := .written c })

/-- The stored UART registers CR, IFLS, IMSC and DMACR: encoding, read, write and reset value; nothing else changes. -/
def Obligations.UartControlAndMaskRegisters : Prop :=
  ∀ (c : CoreId) (u : Nat) (v : Word) (s : State) (U : Uart), s.uarts[u]? = some U →
    (decodeSel (.uart u) 0x0030 c v = .uartCrR c u ∧ Uart.reset.cr = 0x0300 ∧
      exec (.uartCrR c u) s = .next { s with reply := .value c (U.cr.setWidth 32) }) ∧
    (decodeSel (.uart u) 0x1030 c v = .uartCrW c u v ∧
      exec (.uartCrW c u v) s =
        .next { s with uarts := s.uarts.set u { U with cr := v.extractLsb' 0 16 &&& 0xFF87 }, reply := .written c }) ∧
    (decodeSel (.uart u) 0x0034 c v = .uartIflsR c u ∧ Uart.reset.ifls = 0x12 ∧
      exec (.uartIflsR c u) s = .next { s with reply := .value c (U.ifls.setWidth 32) }) ∧
    (decodeSel (.uart u) 0x1034 c v = .uartIflsW c u v ∧
      exec (.uartIflsW c u v) s =
        .next { s with uarts := s.uarts.set u { U with ifls := v.extractLsb' 0 6 }, reply := .written c }) ∧
    (decodeSel (.uart u) 0x0038 c v = .uartImscR c u ∧ Uart.reset.imsc = 0 ∧
      exec (.uartImscR c u) s = .next { s with reply := .value c (U.imsc.setWidth 32) }) ∧
    (decodeSel (.uart u) 0x1038 c v = .uartImscW c u v ∧
      exec (.uartImscW c u v) s =
        .next { s with uarts := s.uarts.set u { U with imsc := v.extractLsb' 0 11 }, reply := .written c }) ∧
    (decodeSel (.uart u) 0x0048 c v = .uartDmacrR c u ∧ Uart.reset.dmacr = 0 ∧
      exec (.uartDmacrR c u) s = .next { s with reply := .value c (U.dmacr.setWidth 32) }) ∧
    (decodeSel (.uart u) 0x1048 c v = .uartDmacrW c u v ∧
      exec (.uartDmacrW c u v) s =
        .next { s with uarts := s.uarts.set u { U with dmacr := v.extractLsb' 0 3 }, reply := .written c })

/-- The UART interrupt registers: RIS and MIS read the raw and the masked bits, ICR clears the bits written 1, and the line of the
UART is the masked bits not all 0; a write of RIS or MIS and a read of ICR change nothing. -/
def Obligations.UartInterruptRegisters : Prop :=
  ∀ (c : CoreId) (u : Nat) (v : Word) (s : State) (U : Uart), s.uarts[u]? = some U →
    (decodeSel (.uart u) 0x003C c v = .uartRisR c u ∧
      exec (.uartRisR c u) s = .next { s with reply := .value c (U.ris.setWidth 32) }) ∧
    (decodeSel (.uart u) 0x103C c v = .uartRisW c u v ∧ exec (.uartRisW c u v) s = .next { s with reply := .written c }) ∧
    (decodeSel (.uart u) 0x0040 c v = .uartMisR c u ∧
      exec (.uartMisR c u) s = .next { s with reply := .value c ((U.ris &&& U.imsc).setWidth 32) }) ∧
    (decodeSel (.uart u) 0x1040 c v = .uartMisW c u v ∧ exec (.uartMisW c u v) s = .next { s with reply := .written c }) ∧
    (decodeSel (.uart u) 0x0044 c v = .uartIcrR c u ∧ exec (.uartIcrR c u) s = .next { s with reply := .value c 0 }) ∧
    (decodeSel (.uart u) 0x1044 c v = .uartIcrW c u v ∧
      exec (.uartIcrW c u v) s =
        .next { s with uarts := s.uarts.set u { U with ris := U.ris &&& ~~~(v.extractLsb' 0 11) }, reply := .written c }) ∧
    (s.uartIrq u = true ↔ U.ris &&& U.imsc ≠ 0)

/-- RSR reads 0, ECR does nothing, FR reads the flags of the FIFO's length (10_state.md R38) and ignores writes. -/
def Obligations.UartStatusAndFlagRegisters : Prop :=
  ∀ (c : CoreId) (u : Nat) (v : Word) (s : State) (U : Uart), s.uarts[u]? = some U →
    (decodeSel (.uart u) 0x0004 c v = .uartRsrR c u ∧ exec (.uartRsrR c u) s = .next { s with reply := .value c 0 }) ∧
    (decodeSel (.uart u) 0x1004 c v = .uartEcrW c u v ∧ exec (.uartEcrW c u v) s = .next { s with reply := .written c }) ∧
    (decodeSel (.uart u) 0x0018 c v = .uartFrR c u ∧
      exec (.uartFrR c u) s = .next { s with
        reply := .value c (if U.fifoLen = 0 then 0x90 else if U.fifoLen = 32 then 0xC0 else 0x80) }) ∧
    (decodeSel (.uart u) 0x1018 c v = .uartFrW c u v ∧ exec (.uartFrW c u v) s = .next { s with reply := .written c })

/-- A data read pops the oldest byte and clears the RX bit exactly when it empties the FIFO; on an empty FIFO it returns an
unspecified value and the core's state does not change. That the value is `Config.draw` at the count `draws`, and that the count then
goes up by 1, is the model's choice (log entry 4). -/
def Obligations.UartDataReadPopsOrDraws : Prop :=
  ∀ (c : CoreId) (u : Nat) (v : Word) (s : State) (U : Uart), s.uarts[u]? = some U →
    decodeSel (.uart u) 0x0000 c v = .uartDrR c u ∧
    (0 < U.fifoLen → exec (.uartDrR c u) s = .next { s with
      uarts := s.uarts.set u { U with
        fifoRd := U.fifoRd + 1
        fifoLen := U.fifoLen - 1
        ris := if U.fifoLen = 1 then U.ris &&& ~~~0x010#11 else U.ris }
      reply := .value c ((U.fifoBuf[U.fifoRd.toNat]'U.fifoRd.isLt).setWidth 32) }) ∧
    (U.fifoLen = 0 → exec (.uartDrR c u) s = .next { s with draws := s.draws + 1, reply := .value c (Config.draw s.draws) })

/-- A data write sends bits 7:0 and sets the TX bit when UARTEN and TXE are set, and is lost without a trace otherwise. -/
def Obligations.UartDataWriteSendsWhenEnabled : Prop :=
  ∀ (c : CoreId) (u : Nat) (v : Word) (s : State) (U : Uart) (sent : List Byte),
    s.uarts[u]? = some U → s.txLog[u]? = some sent →
    decodeSel (.uart u) 0x1000 c v = .uartDrW c u v ∧
    exec (.uartDrW c u v) s = .next (
      if U.cr.getLsbD 0 = true ∧ U.cr.getLsbD 8 = true then { s with
        txLog := s.txLog.set u (sent ++ [v.extractLsb' 0 8])
        uarts := s.uarts.set u { U with ris := U.ris ||| 0x020#11 }
        reply := .written c }
      else { s with reply := .written c })

/-- A delivery runs byte by byte: each byte is pushed and sets RX, or, on a full FIFO, is dropped and sets RX and OE; without UARTEN
and RXE it changes nothing. The capacity query answers the free space, whatever the enables, and changes nothing. -/
def Obligations.UartDeliveryRunsByteByByte : Prop :=
  (∀ (u : Nat) (s : State) (U : Uart), s.uarts[u]? = some U →
    exec (.uartCapacity u) s = .next { s with reply := .capacity (32 - U.fifoLen) }) ∧
  (∀ (u : Nat) (bytes : List Byte) (s : State) (U : Uart), s.uarts[u]? = some U →
    exec (.uartRx u bytes) s = .next { s with uarts := s.uarts.set u (bytes.foldl Uart.receive U), reply := .done }) ∧
  ∀ (U : Uart) (b : Byte), U.receive b =
    if U.cr.getLsbD 0 = true ∧ U.cr.getLsbD 9 = true then
      if U.fifoLen < 32 then { U with
        fifoBuf := U.fifoBuf.set U.fifoWr.toNat b U.fifoWr.isLt
        fifoWr := U.fifoWr + 1
        fifoLen := U.fifoLen + 1
        ris := U.ris ||| 0x010#11 }
      else { U with ris := U.ris ||| 0x400#11 ||| 0x010#11 }
    else U

/-- On an enabled UART a delivery appends to the bytes held as far as they fit and drops the rest; RX is set by a non-empty delivery,
and OE exactly when a byte is dropped (or it was set before). -/
def Obligations.DeliveryAppendsUpToCapacity : Prop :=
  ∀ (u : Nat) (bytes : List Byte) (s : State) (U : Uart), s.uarts[u]? = some U →
    U.rxEnabled = true → U.fifoLen ≤ 32 → U.cursorsAgree → bytes ≠ [] →
    ∃ (t : State) (V : Uart), exec (.uartRx u bytes) s = .next t ∧ t.uarts[u]? = some V ∧
      V.held = (U.held ++ bytes).take 32 ∧ V.cursorsAgree ∧ V.fifoLen = min 32 (U.fifoLen + bytes.length) ∧
      V.ris.getLsbD 4 = true ∧
      V.ris.getLsbD 10 = (U.ris.getLsbD 10 || decide (32 < U.fifoLen + bytes.length))

/-- A data read takes the oldest of the bytes held and leaves the rest, in order. -/
def Obligations.DataReadTakesTheOldestByte : Prop :=
  ∀ (c : CoreId) (u : Nat) (s : State) (U : Uart) (b : Byte) (rest : List Byte), s.uarts[u]? = some U →
    U.held = b :: rest →
    ∃ (t : State) (V : Uart), exec (.uartDrR c u) s = .next t ∧ t.reply = .value c (b.setWidth 32) ∧
      t.uarts[u]? = some V ∧ V.held = rest

/-- The FIFO law: at most 32 bytes delivered to an enabled, empty UART are returned by as many data reads, in order. -/
def Obligations.FifoReturnsBytesInOrder : Prop :=
  ∀ (c : CoreId) (u : Nat) (bytes : List Byte) (s : State) (U : Uart), s.uarts[u]? = some U →
    U.rxEnabled = true → U.fifoLen = 0 → U.cursorsAgree → bytes.length ≤ 32 →
    ∃ t, exec (.uartRx u bytes) s = .next t ∧ t.drain c u bytes.length = some (bytes.map (BitVec.setWidth 32))

/-! GPIO. -/

/-- The per-pin registers: STATUS reads the level at bit 17 and ignores writes; CTRL reads and stores the function select. -/
def Obligations.GpioPinRegisters : Prop :=
  ∀ (c : CoreId) (p : Fin 30) (v : Word) (s : State),
    (decodeSel .gpio (BitVec.ofNat 13 (8 * p.val)) c v = .gpioStatusR c p ∧
      exec (.gpioStatusR c p) s = .next { s with reply := .value c (if s.gpio.level[p] then 0x20000 else 0) }) ∧
    (decodeSel .gpio (BitVec.ofNat 13 (0x1000 + 8 * p.val)) c v = .gpioStatusW c p v ∧
      exec (.gpioStatusW c p v) s = .next { s with reply := .written c }) ∧
    (decodeSel .gpio (BitVec.ofNat 13 (0x0004 + 8 * p.val)) c v = .gpioCtrlR c p ∧ Gpio.reset.funcsel[p] = 0x1F ∧
      exec (.gpioCtrlR c p) s = .next { s with reply := .value c (s.gpio.funcsel[p].setWidth 32) }) ∧
    (decodeSel .gpio (BitVec.ofNat 13 (0x1004 + 8 * p.val)) c v = .gpioCtrlW c p v ∧
      exec (.gpioCtrlW c p v) s = .next { s with
        gpio := { s.gpio with funcsel := s.gpio.funcsel.set p (v.extractLsb' 0 5) }, reply := .written c })

/-- The pending and enable registers of the GPIO: reads, write-1-to-clear, masked enables; INTS is read only. -/
def Obligations.GpioInterruptRegisters : Prop :=
  ∀ (c : CoreId) (r : Fin 4) (v : Word) (s : State),
    let mask : Word := if r = 3 then 0x00FFFFFF else 0xFFFFFFFF
    (decodeSel .gpio (BitVec.ofNat 13 (0x00F0 + 4 * r.val)) c v = .gpioIntrR c r ∧
      exec (.gpioIntrR c r) s = .next { s with reply := .value c s.gpio.intr[r] }) ∧
    (decodeSel .gpio (BitVec.ofNat 13 (0x10F0 + 4 * r.val)) c v = .gpioIntrW c r v ∧
      exec (.gpioIntrW c r v) s = .next { s with
        gpio := { s.gpio with intr := s.gpio.intr.set r (s.gpio.intr[r] &&& ~~~(v &&& mask)) }, reply := .written c }) ∧
    (decodeSel .gpio (BitVec.ofNat 13 (0x0100 + 4 * r.val)) c v = .gpioP0inteR c r ∧ Gpio.reset.inte0[r] = 0 ∧
      exec (.gpioP0inteR c r) s = .next { s with reply := .value c s.gpio.inte0[r] }) ∧
    (decodeSel .gpio (BitVec.ofNat 13 (0x1100 + 4 * r.val)) c v = .gpioP0inteW c r v ∧
      exec (.gpioP0inteW c r v) s = .next { s with
        gpio := { s.gpio with inte0 := s.gpio.inte0.set r (v &&& mask) }, reply := .written c }) ∧
    (decodeSel .gpio (BitVec.ofNat 13 (0x0120 + 4 * r.val)) c v = .gpioP0intsR c r ∧
      exec (.gpioP0intsR c r) s = .next { s with reply := .value c (s.gpio.intr[r] &&& s.gpio.inte0[r]) }) ∧
    (decodeSel .gpio (BitVec.ofNat 13 (0x1120 + 4 * r.val)) c v = .gpioP0intsW c r v ∧
      exec (.gpioP0intsW c r v) s = .next { s with reply := .written c }) ∧
    (decodeSel .gpio (BitVec.ofNat 13 (0x0130 + 4 * r.val)) c v = .gpioP1inteR c r ∧ Gpio.reset.inte1[r] = 0 ∧
      exec (.gpioP1inteR c r) s = .next { s with reply := .value c s.gpio.inte1[r] }) ∧
    (decodeSel .gpio (BitVec.ofNat 13 (0x1130 + 4 * r.val)) c v = .gpioP1inteW c r v ∧
      exec (.gpioP1inteW c r v) s = .next { s with
        gpio := { s.gpio with inte1 := s.gpio.inte1.set r (v &&& mask) }, reply := .written c }) ∧
    (decodeSel .gpio (BitVec.ofNat 13 (0x0150 + 4 * r.val)) c v = .gpioP1intsR c r ∧
      exec (.gpioP1intsR c r) s = .next { s with reply := .value c (s.gpio.intr[r] &&& s.gpio.inte1[r]) }) ∧
    (decodeSel .gpio (BitVec.ofNat 13 (0x1150 + 4 * r.val)) c v = .gpioP1intsW c r v ∧
      exec (.gpioP1intsW c r v) s = .next { s with reply := .written c })

/-- A pin report, bit by bit: the level follows; for a pin in SIO each satisfied condition enabled for at least one core is added to
the pin's four pending bits, and every other pending bit, every enable and every function select stays. -/
def Obligations.PinReportRecordsEnabledConditions : Prop :=
  ∀ (p : Fin 30) (lvl : Bool) (s : State), ∃ g : Gpio,
    exec (.gpioReport p lvl) s = .next { s with gpio := g, reply := .done } ∧
    g.level = s.gpio.level.set p lvl ∧ g.funcsel = s.gpio.funcsel ∧ g.inte0 = s.gpio.inte0 ∧ g.inte1 = s.gpio.inte1 ∧
    (s.gpio.funcsel[p] ≠ 5 → g.intr = s.gpio.intr) ∧
    (s.gpio.funcsel[p] = 5 → ∀ (r : Fin 4) (b : Fin 32),
      g.intr[r].getLsbD b.val =
        (s.gpio.intr[r].getLsbD b.val ||
          (decide (r.val = p.val / 8 ∧ b.val / 4 = p.val % 8)
            && (s.gpio.inte0[r].getLsbD b.val || s.gpio.inte1[r].getLsbD b.val)
            && (match b.val % 4 with
                | 0 => !lvl
                | 1 => lvl
                | 2 => s.gpio.level[p] && !lvl
                | _ => !s.gpio.level[p] && lvl))))

/-- A report raises at most one edge bit, that of its own pin and of the transition it makes: a transition to high only edge-high, to
low only edge-low, an unchanged level neither. -/
def Obligations.ReportRaisesOnlyItsTransitionsEdge : Prop :=
  ∀ (p : Fin 30) (lvl : Bool) (s t : State), exec (.gpioReport p lvl) s = .next t →
    ∀ (r : Fin 4) (b : Fin 32), 2 ≤ b.val % 4 →
      t.gpio.intr[r].getLsbD b.val = true → s.gpio.intr[r].getLsbD b.val = false →
      r.val = p.val / 8 ∧ b.val / 4 = p.val % 8 ∧ s.gpio.level[p] ≠ lvl ∧ b.val % 4 = (if lvl then 3 else 2)

/-- No operation but a pin report and a restore sets a pending bit: in particular no register read or write, straight or over the
bus. -/
def Obligations.PendingBitsAreSetByReportsOnly : Prop :=
  ∀ (i : Instr) (s t : State), exec i s = .next t → (∀ p lvl, i ≠ .gpioReport p lvl) → (∀ snap, i ≠ .hostRestore snap) →
    ∀ (r : Fin 4) (b : Fin 32), t.gpio.intr[r].getLsbD b.val = true → s.gpio.intr[r].getLsbD b.val = true

/-! Timer and clock. -/

/-- The timer registers that only read: 0, the stored value, or the halves of the counter, which is derived
(10_state.md R61); nothing but the reply changes. -/
def Obligations.TimerPlainReads : Prop :=
  ∀ (c : CoreId) (k : Fin 4) (v : Word) (s : State),
    (s.counter = if s.timer.paused then s.timer.frozen else s.clockNow - s.timer.base) ∧
    (decodeSel .timer 0x0000 c v = .timerTimehwR c ∧ exec (.timerTimehwR c) s = .next { s with reply := .value c 0 }) ∧
    (decodeSel .timer 0x0004 c v = .timerTimelwR c ∧ exec (.timerTimelwR c) s = .next { s with reply := .value c 0 }) ∧
    (decodeSel .timer (BitVec.ofNat 13 (0x0010 + 4 * k.val)) c v = .timerAlarmR c k ∧
      exec (.timerAlarmR c k) s = .next { s with reply := .value c (s.timer.target[k].extractLsb' 0 32) }) ∧
    (decodeSel .timer 0x0020 c v = .timerArmedR c ∧
      exec (.timerArmedR c) s = .next { s with reply := .value c (s.timer.armed.setWidth 32) }) ∧
    (decodeSel .timer 0x0024 c v = .timerRawhR c ∧
      exec (.timerRawhR c) s = .next { s with reply := .value c (s.counter.extractLsb' 32 32) }) ∧
    (decodeSel .timer 0x0028 c v = .timerRawlR c ∧
      exec (.timerRawlR c) s = .next { s with reply := .value c (s.counter.extractLsb' 0 32) }) ∧
    (decodeSel .timer 0x0030 c v = .timerPauseR c ∧ (Timer.reset s.clockNow).paused = false ∧
      exec (.timerPauseR c) s = .next { s with reply := .value c (if s.timer.paused then 1 else 0) }) ∧
    (decodeSel .timer 0x0034 c v = .timerIntrR c ∧
      exec (.timerIntrR c) s = .next { s with reply := .value c (s.timer.intr.setWidth 32) }) ∧
    (decodeSel .timer 0x0038 c v = .timerInteR c ∧ (Timer.reset s.clockNow).inte = 0 ∧
      exec (.timerInteR c) s = .next { s with reply := .value c (s.timer.inte.setWidth 32) }) ∧
    (decodeSel .timer 0x0040 c v = .timerIntsR c ∧
      exec (.timerIntsR c) s = .next { s with reply := .value c ((s.timer.intr &&& s.timer.inte).setWidth 32) })

/-- The timer writes that do nothing: TIMEHW and the read-only registers. -/
def Obligations.TimerIgnoredWrites : Prop :=
  ∀ (c : CoreId) (v : Word) (s : State),
    (decodeSel .timer 0x1000 c v = .timerTimehwW c v ∧ exec (.timerTimehwW c v) s = .next { s with reply := .written c }) ∧
    (decodeSel .timer 0x1008 c v = .timerTimehrW c v ∧ exec (.timerTimehrW c v) s = .next { s with reply := .written c }) ∧
    (decodeSel .timer 0x100C c v = .timerTimelrW c v ∧ exec (.timerTimelrW c v) s = .next { s with reply := .written c }) ∧
    (decodeSel .timer 0x1024 c v = .timerRawhW c v ∧ exec (.timerRawhW c v) s = .next { s with reply := .written c }) ∧
    (decodeSel .timer 0x1028 c v = .timerRawlW c v ∧ exec (.timerRawlW c v) s = .next { s with reply := .written c }) ∧
    (decodeSel .timer 0x1040 c v = .timerIntsW c v ∧ exec (.timerIntsW c v) s = .next { s with reply := .written c })

/-- ARMED and INTR clear the bits written 1, INTE stores bits 3:0, and line k is raw bit k and enable bit k. -/
def Obligations.TimerClearAndEnableWrites : Prop :=
  ∀ (c : CoreId) (v : Word) (s : State),
    (decodeSel .timer 0x1020 c v = .timerArmedW c v ∧
      exec (.timerArmedW c v) s = .next { s with
        timer := { s.timer with armed := s.timer.armed &&& ~~~(v.extractLsb' 0 4) }, reply := .written c }) ∧
    (decodeSel .timer 0x1034 c v = .timerIntrW c v ∧
      exec (.timerIntrW c v) s = .next { s with
        timer := { s.timer with intr := s.timer.intr &&& ~~~(v.extractLsb' 0 4) }, reply := .written c }) ∧
    (decodeSel .timer 0x1038 c v = .timerInteW c v ∧
      exec (.timerInteW c v) s = .next { s with
        timer := { s.timer with inte := v.extractLsb' 0 4 }, reply := .written c }) ∧
    (∀ k : Fin 4, s.timerIrq k = (s.timer.intr.getLsbD k.val && s.timer.inte.getLsbD k.val))

/-- TIMEHR latches the whole counter and returns its high word; TIMELR returns the low word of the latch, of the one latch when the
scope is shared and of the core's own when it is per_core. -/
def Obligations.TimerHighReadLatchesLowReadReturnsLatch : Prop :=
  ∀ (c : CoreId) (v : Word) (s : State),
    let slot : Fin 2 := if s.cfg.latchScope = .perCore ∧ c = .core1 then 1 else 0
    (decodeSel .timer 0x0008 c v = .timerTimehrR c ∧
      exec (.timerTimehrR c) s = .next { s with
        timer := { s.timer with latch := s.timer.latch.set slot s.counter }
        reply := .value c (s.counter.extractLsb' 32 32) }) ∧
    (decodeSel .timer 0x000C c v = .timerTimelrR c ∧
      exec (.timerTimelrR c) s = .next { s with reply := .value c (s.timer.latch[slot].extractLsb' 0 32) })

/-- A TIMELW write makes the counter the zero-extended data and evaluates every armed alarm against it; the latch, the targets, the
enables and the pause flag stay. -/
def Obligations.TimelwWriteRebases : Prop :=
  ∀ (c : CoreId) (v : Word) (s : State), decodeSel .timer 0x1004 c v = .timerTimelwW c v ∧
    ∃ T : Timer, exec (.timerTimelwW c v) s = .next { s with timer := T, reply := .written c } ∧
      T.counter s.clockNow = v.setWidth 64 ∧
      T.base = (if s.timer.paused then s.timer.base else s.clockNow - v.setWidth 64) ∧
      T.frozen = (if s.timer.paused then v.setWidth 64 else s.timer.frozen) ∧
      T.paused = s.timer.paused ∧ T.latch = s.timer.latch ∧ T.target = s.timer.target ∧ T.inte = s.timer.inte ∧
      s.timer.firedAt T (v.setWidth 64)

/-- An ALARMk write captures the counter's high word above the data, arms alarm k, and evaluates every alarm: alarm k fires at once
exactly when the data is at or below the counter's low word. -/
def Obligations.AlarmWriteArmsOrFires : Prop :=
  ∀ (c : CoreId) (k : Fin 4) (v : Word) (s : State),
    decodeSel .timer (BitVec.ofNat 13 (0x1010 + 4 * k.val)) c v = .timerAlarmW c k v ∧
    ∃ T : Timer, exec (.timerAlarmW c k v) s = .next { s with timer := T, reply := .written c } ∧
      T.target = s.timer.target.set k (s.counter.extractLsb' 32 32 ++ v) ∧
      T.base = s.timer.base ∧ T.frozen = s.timer.frozen ∧ T.paused = s.timer.paused ∧ T.latch = s.timer.latch ∧
      T.inte = s.timer.inte ∧
      (v ≤ s.counter.extractLsb' 0 32 → T.armed.getLsbD k.val = false ∧ T.intr.getLsbD k.val = true) ∧
      (s.counter.extractLsb' 0 32 < v → T.armed.getLsbD k.val = true ∧ T.intr.getLsbD k.val = s.timer.intr.getLsbD k.val) ∧
      (∀ j : Fin 4, j ≠ k →
        T.armed.getLsbD j.val = (s.timer.armed.getLsbD j.val && decide (s.counter < s.timer.target[j])) ∧
        T.intr.getLsbD j.val =
          (s.timer.intr.getLsbD j.val || s.timer.armed.getLsbD j.val && decide (s.timer.target[j] ≤ s.counter)))

/-- A PAUSE write sets the flag to bit 0 of the data and keeps the counter's value: pausing freezes it, resuming goes on from it. -/
def Obligations.PauseWriteKeepsTheCounter : Prop :=
  ∀ (c : CoreId) (v : Word) (s : State), decodeSel .timer 0x1030 c v = .timerPauseW c v ∧
    ∃ T : Timer, exec (.timerPauseW c v) s = .next { s with timer := T, reply := .written c } ∧
      T.paused = v.getLsbD 0 ∧ T.counter s.clockNow = s.counter ∧
      T.frozen = (if v.getLsbD 0 = true ∧ s.timer.paused = false then s.counter else s.timer.frozen) ∧
      T.base = (if v.getLsbD 0 = false ∧ s.timer.paused = true then s.clockNow - s.timer.frozen else s.timer.base) ∧
      T.latch = s.timer.latch ∧ T.target = s.timer.target ∧ T.inte = s.timer.inte ∧
      s.timer.firedAt T s.counter

/-- A clock advance moves the clock and fires every armed alarm whose target the counter reaches, all in one step. -/
def Obligations.ClockAdvanceFiresDueAlarms : Prop :=
  ∀ (x : Time) (s : State), s.clockNow ≤ x →
    ∃ T : Timer, exec (.clockAdvance x) s = .next { s with clockNow := x, timer := T, reply := .done } ∧
      T.base = s.timer.base ∧ T.frozen = s.timer.frozen ∧ T.paused = s.timer.paused ∧ T.latch = s.timer.latch ∧
      T.target = s.timer.target ∧ T.inte = s.timer.inte ∧
      s.timer.firedAt T (s.timer.counter x)

/-- While running, the counter moves by exactly the clock's step; while paused it does not move. -/
def Obligations.CounterFollowsTheClock : Prop :=
  ∀ (x : Time) (s t : State), exec (.clockAdvance x) s = .next t →
    t.counter = if s.timer.paused then s.counter else s.counter + (x - s.clockNow)

/-- No operation but a clock advance, a TIMELW write (straight, or a 32-bit bus write whose address decodes to TIMELW), a reset and a
restore changes the counter. -/
def Obligations.CounterIsMovedByNothingElse : Prop :=
  ∀ (i : Instr) (s t : State), exec i s = .next t →
    (∀ x, i ≠ .clockAdvance x) → (∀ c v, i ≠ .timerTimelwW c v) →
    (∀ c a v, i = .busW32 c a v → decodeAddr s.cfg a .word ≠ .dev .timer 0x004) → i ≠ .hostReset →
    (∀ snap, i ≠ .hostRestore snap) → t.counter = s.counter

/-- An armed alarm of a running timer that is not yet due fires exactly at its deadline, clock_now + (target - counter): an advance
to an earlier time leaves it armed, and one to the deadline fires it (no wrap of the clock before the deadline). -/
def Obligations.AlarmFiresAtItsDeadline : Prop :=
  ∀ (k : Fin 4) (x : Time) (s t : State), exec (.clockAdvance x) s = .next t →
    s.timer.paused = false → s.timer.armed.getLsbD k.val = true → s.counter < s.timer.target[k] →
    s.clockNow.toNat + (s.timer.target[k].toNat - s.counter.toNat) < 2 ^ 64 →
    (x < s.clockNow + (s.timer.target[k] - s.counter) →
      t.timer.armed.getLsbD k.val = true ∧ t.timer.intr.getLsbD k.val = s.timer.intr.getLsbD k.val) ∧
    (x = s.clockNow + (s.timer.target[k] - s.counter) →
      t.timer.armed.getLsbD k.val = false ∧ t.timer.intr.getLsbD k.val = true)

/-- A disarmed alarm stays disarmed and never fires, whatever runs, until an operation arms it: a write of its ALARM register
(straight, or a 32-bit bus write whose address decodes to it) or a restore. -/
def Obligations.DisarmedAlarmNeverFires : Prop :=
  ∀ (k : Fin 4) (i : Instr) (s t : State), exec i s = .next t → s.timer.armed.getLsbD k.val = false →
    (∀ c v, i ≠ .timerAlarmW c k v) →
    (∀ c a v, i = .busW32 c a v → decodeAddr s.cfg a .word ≠ .dev .timer (BitVec.ofNat 12 (0x010 + 4 * k.val))) →
    (∀ snap, i ≠ .hostRestore snap) →
    t.timer.armed.getLsbD k.val = false ∧ (t.timer.intr.getLsbD k.val = true → s.timer.intr.getLsbD k.val = true)

/-- Nothing but a TIMEHR read (straight, or a 32-bit bus read whose address decodes to TIMEHR), a reset and a restore changes the
latch: a rebase, a pause or a clock advance between the two reads of a 64-bit time cannot tear it. -/
def Obligations.LatchIsTakenByHighReadsOnly : Prop :=
  ∀ (i : Instr) (s t : State), exec i s = .next t →
    (∀ c, i ≠ .timerTimehrR c) → (∀ c a, i = .busR32 c a → decodeAddr s.cfg a .word ≠ .dev .timer 0x008) → i ≠ .hostReset →
    (∀ snap, i ≠ .hostRestore snap) →
    t.timer.latch = s.timer.latch

/-- The clock moves only by a clock advance, and never backwards. -/
def Obligations.ClockMovesForwardByAdvanceOnly : Prop :=
  ∀ (i : Instr) (s t : State), exec i s = .next t →
    s.clockNow ≤ t.clockNow ∧ ((∀ x, i ≠ .clockAdvance x) → t.clockNow = s.clockNow)

/-! The bus. -/

/-- The dispatcher: alignment first; then UNMAPPED when no region holds the access; and in a composition that passes the checks, the
region an aligned access's address lies in decides, whatever its place in the map. -/
def Obligations.DispatcherDecodesByRegion : Prop :=
  ∀ (cfg : Config) (a : Word) (w : BusWidth),
    (a.toNat % widthBytes w ≠ 0 → decodeAddr cfg a w = .err .misaligned) ∧
    (a.toNat % widthBytes w = 0 →
      ((∀ r ∈ cfg.regions, ¬ (r.base ≤ a.toNat ∧ a.toNat + widthBytes w - 1 ≤ r.base + r.size - 1)) →
        decodeAddr cfg a w = .err .unmapped) ∧
      (cfg.ok = true → ∀ r ∈ cfg.regions, r.base ≤ a.toNat → a.toNat < r.base + r.size →
        decodeAddr cfg a w =
          match r.kind with
          | .mem m => .mem m (a.toNat - r.base)
          | .stub => .stub
          | .device port => if w = .word then .dev port (BitVec.ofNat 12 (a.toNat - r.base)) else .err .badWidth))

/-- The default address map at the first and the last place of each region and just outside some of them, and the errors of an
access that is misaligned or too narrow. The default addresses and sizes are those of the spec, taken from the RP2040 (log entry 8). -/
def Obligations.DefaultAddressMap : Prop :=
  decodeAddr .default 0x00000000 .word = .mem .rom 0 ∧
  decodeAddr .default 0x00003FFF .byte = .mem .rom 0x3FFF ∧
  decodeAddr .default 0x00004000 .word = .err .unmapped ∧
  decodeAddr .default 0x0FFFFFFF .byte = .err .unmapped ∧
  decodeAddr .default 0x10000000 .half = .mem .xip 0 ∧
  decodeAddr .default 0x10FFFFFC .word = .mem .xip 0xFFFFFC ∧
  decodeAddr .default 0x10FFFFFF .byte = .mem .xip 0xFFFFFF ∧
  decodeAddr .default 0x11000000 .byte = .err .unmapped ∧
  decodeAddr .default 0x20000000 .byte = .mem .sram 0 ∧
  decodeAddr .default 0x20041FFE .half = .mem .sram 0x41FFE ∧
  decodeAddr .default 0x20041FFF .byte = .mem .sram 0x41FFF ∧
  decodeAddr .default 0x20042000 .word = .err .unmapped ∧
  decodeAddr .default 0x40013FFC .word = .err .unmapped ∧
  decodeAddr .default 0x40014000 .word = .dev .gpio 0x000 ∧
  decodeAddr .default 0x40014FFC .word = .dev .gpio 0xFFC ∧
  decodeAddr .default 0x40015000 .word = .err .unmapped ∧
  decodeAddr .default 0x40034000 .word = .dev (.uart 0) 0x000 ∧
  decodeAddr .default 0x40034018 .word = .dev (.uart 0) 0x018 ∧
  decodeAddr .default 0x40034FFC .word = .dev (.uart 0) 0xFFC ∧
  decodeAddr .default 0x40038000 .word = .dev (.uart 1) 0x000 ∧
  decodeAddr .default 0x40038FFC .word = .dev (.uart 1) 0xFFC ∧
  decodeAddr .default 0x40039000 .word = .err .unmapped ∧
  decodeAddr .default 0x40054000 .word = .dev .timer 0x000 ∧
  decodeAddr .default 0x40054040 .word = .dev .timer 0x040 ∧
  decodeAddr .default 0x40054FFC .word = .dev .timer 0xFFC ∧
  decodeAddr .default 0x40055000 .word = .err .unmapped ∧
  decodeAddr .default 0x40034018 .byte = .err .badWidth ∧
  decodeAddr .default 0x40034001 .word = .err .misaligned ∧
  decodeAddr .default 0x40035000 .word = .err .unmapped ∧
  decodeAddr .default 0x50000000 .word = .stub ∧
  decodeAddr .default 0x50000FFF .byte = .stub ∧
  decodeAddr .default 0x50001000 .word = .err .unmapped ∧
  decodeAddr .default 0x50200000 .word = .stub ∧
  decodeAddr .default 0x50200FFE .half = .stub ∧
  decodeAddr .default 0x50300000 .byte = .stub ∧
  decodeAddr .default 0x50300FFC .word = .stub ∧
  decodeAddr .default 0x50301000 .word = .err .unmapped ∧
  decodeAddr .default 0x30000002 .word = .err .misaligned

/-- A read of a memory region returns its bytes, the one at the lowest address least significant, zero-extended, and changes nothing
but the reply. The bytes are those of ROM_IMAGE in ROM and of XIP_IMAGE in XIP (an image given byte by byte, or left open: log
entry 7), and in SRAM the stored byte, or the power-on draw where nothing is stored (log entry 5). -/
def Obligations.BusReadsOfMemory : Prop :=
  (∀ (bytes : List Byte) (off : Nat) (h : off < bytes.length), (Image.given bytes).byte off = bytes[off]) ∧
  (∀ size id off : Nat, (Image.unknown size id).byte off = Config.unknownByte id off) ∧
  (∀ (s : State) (off : Nat),
    s.memByte .rom off = s.cfg.romImage.byte off ∧
    s.memByte .xip off = s.cfg.xipImage.byte off ∧
    (∀ b : Byte, s.sram.wf → (off, b) ∈ s.sram → s.memByte .sram off = b) ∧
    ((∀ b : Byte, (off, b) ∉ s.sram) → s.memByte .sram off = Config.sramPowerOn off)) ∧
  ∀ (c : CoreId) (a : Word) (s : State) (m : MemKind) (off : Nat),
    (decodeAddr s.cfg a .byte = .mem m off →
      exec (.busR8 c a) s = .next { s with reply := .value c ((s.memByte m off).setWidth 32) }) ∧
    (decodeAddr s.cfg a .half = .mem m off →
      exec (.busR16 c a) s = .next { s with
        reply := .value c ((s.memByte m (off + 1) ++ s.memByte m off).setWidth 32) }) ∧
    (decodeAddr s.cfg a .word = .mem m off →
      exec (.busR32 c a) s = .next { s with
        reply := .value c (s.memByte m (off + 3) ++ s.memByte m (off + 2) ++ s.memByte m (off + 1) ++ s.memByte m off) })

/-- A write to SRAM stores the low bytes of the data, the least significant at the lowest address, and leaves every other byte of
every memory region and every other part of the state as it was. -/
def Obligations.BusWritesOfSram : Prop :=
  ∀ (c : CoreId) (a v : Word) (s : State) (off : Nat),
    (decodeAddr s.cfg a .byte = .mem .sram off → ∃ mem : Memory,
      exec (.busW8 c a v) s = .next { s with sram := mem, reply := .written c } ∧
      { s with sram := mem }.memByte .sram off = v.extractLsb' 0 8 ∧
      ∀ (m : MemKind) (x : Nat), m ≠ .sram ∨ x ≠ off → { s with sram := mem }.memByte m x = s.memByte m x) ∧
    (decodeAddr s.cfg a .half = .mem .sram off → ∃ mem : Memory,
      exec (.busW16 c a v) s = .next { s with sram := mem, reply := .written c } ∧
      (∀ j : Nat, j < 2 → { s with sram := mem }.memByte .sram (off + j) = v.extractLsb' (8 * j) 8) ∧
      ∀ (m : MemKind) (x : Nat), m ≠ .sram ∨ x < off ∨ off + 2 ≤ x → { s with sram := mem }.memByte m x = s.memByte m x) ∧
    (decodeAddr s.cfg a .word = .mem .sram off → ∃ mem : Memory,
      exec (.busW32 c a v) s = .next { s with sram := mem, reply := .written c } ∧
      (∀ j : Nat, j < 4 → { s with sram := mem }.memByte .sram (off + j) = v.extractLsb' (8 * j) 8) ∧
      ∀ (m : MemKind) (x : Nat), m ≠ .sram ∨ x < off ∨ off + 4 ≤ x → { s with sram := mem }.memByte m x = s.memByte m x)

/-- A transaction that decode turns away, or that hits a stub window, appends one record and ends with 0 or with nothing stored. The
record of a 1- or 2-byte write holds the whole 32-bit data (the model's reading, log entry 21). -/
def Obligations.BusGuestErrorsLogAndGoOn : Prop :=
  ∀ (c : CoreId) (a v : Word) (w : BusWidth) (s : State) (kind : GuestErrorKind),
    (decodeAddr s.cfg a w = .err kind ∨ (decodeAddr s.cfg a w = .stub ∧ kind = .stub)) →
    exec (match w with
      | .byte => .busR8 c a
      | .half => .busR16 c a
      | .word => .busR32 c a) s =
        .next { s with diag := s.diag ++ [⟨kind, c, .read, a, w, 0⟩], reply := .value c 0 } ∧
    exec (match w with
      | .byte => .busW8 c a v
      | .half => .busW16 c a v
      | .word => .busW32 c a v) s =
        .next { s with diag := s.diag ++ [⟨kind, c, .write, a, w, v⟩], reply := .written c }

/-- A write of any width to ROM or XIP is logged as READ_ONLY_REGION and changes nothing else. The record of a 1- or 2-byte write
holds the whole 32-bit data (the model's reading, log entry 21). -/
def Obligations.ReadOnlyRegionsIgnoreWrites : Prop :=
  ∀ (c : CoreId) (a v : Word) (w : BusWidth) (s : State) (m : MemKind) (off : Nat), m ≠ .sram →
    decodeAddr s.cfg a w = .mem m off →
    exec (match w with
      | .byte => .busW8 c a v
      | .half => .busW16 c a v
      | .word => .busW32 c a v) s =
        .next { s with diag := s.diag ++ [⟨.readOnlyRegion, c, .write, a, w, v⟩], reply := .written c }

/-- A reserved register access, read or write, appends one RESERVED record with the register's address and changes nothing else. -/
def Obligations.ReservedAccessesLogAndGoOn : Prop :=
  ∀ (c : CoreId) (dir : Dir) (off : BitVec 12) (v : Word) (s : State),
    let ended : Reply := if dir = .read then .value c 0 else .written c
    (∀ (u : Nat) (base : Nat), u < s.uarts.length → s.cfg.uartBase[u]? = some base →
      exec (.uartReserved c u dir off v) s = .next { s with
        diag := s.diag ++ [⟨.reserved, c, dir, BitVec.ofNat 32 (base + off.toNat), .word, v⟩], reply := ended }) ∧
    exec (.gpioReserved c dir off v) s = .next { s with
      diag := s.diag ++ [⟨.reserved, c, dir, BitVec.ofNat 32 (s.cfg.gpioBase + off.toNat), .word, v⟩], reply := ended } ∧
    exec (.timerReserved c dir off v) s = .next { s with
      diag := s.diag ++ [⟨.reserved, c, dir, BitVec.ofNat 32 (s.cfg.timerBase + off.toNat), .word, v⟩], reply := ended }

/-- A 32-bit transaction that decodes to a device register is the register operation its selector names. -/
def Obligations.BusReachesTheSelectedRegister : Prop :=
  ∀ (c : CoreId) (a v : Word) (s : State) (port : DevPort) (off : BitVec 12),
    decodeAddr s.cfg a .word = .dev port off →
    exec (.busR32 c a) s = exec (decodeSel port (selector .read off) c 0) s ∧
    exec (.busW32 c a v) s = exec (decodeSel port (selector .write off) c v) s

/-- No bus transaction blocks: in a composed state each completes, a read with a value for its core, a write with its completion. -/
def Obligations.NoBusTransactionBlocks : Prop :=
  ∀ (c : CoreId) (a v : Word) (s : State), s.composed →
    (∃ t x, exec (.busR8 c a) s = .next t ∧ t.reply = .value c x) ∧
    (∃ t x, exec (.busR16 c a) s = .next t ∧ t.reply = .value c x) ∧
    (∃ t x, exec (.busR32 c a) s = .next t ∧ t.reply = .value c x) ∧
    (∃ t, exec (.busW8 c a v) s = .next t ∧ t.reply = .written c) ∧
    (∃ t, exec (.busW16 c a v) s = .next t ∧ t.reply = .written c) ∧
    (∃ t, exec (.busW32 c a v) s = .next t ∧ t.reply = .written c)

/-- Any operation appends at most one diagnostic record; one that does changes nothing else but the reply, and so no interrupt
line. -/
def Obligations.GuestErrorChangesOnlyTheLog : Prop :=
  ∀ (i : Instr) (s t : State), exec i s = .next t →
    t.diag = s.diag ∨
    ∃ d, t = { s with diag := s.diag ++ [d], reply := t.reply } ∧ ∀ l : Line, t.lineLevel l = s.lineLevel l

/-- A narrow read changes nothing but the diagnostic log and the reply, wherever it goes. -/
def Obligations.NarrowReadsHaveNoSideEffect : Prop :=
  ∀ (c : CoreId) (a : Word) (s t : State), exec (.busR8 c a) s = .next t ∨ exec (.busR16 c a) s = .next t →
    t = { s with diag := t.diag, reply := t.reply }

/-- A write to a write-1-to-clear register or to a stored register, done twice, leaves what it left done once. -/
def Obligations.ClearAndStoreWritesAreIdempotent : Prop :=
  ∀ (i : Instr) (s t : State),
    (match i with
      | .uartIcrW .. | .gpioIntrW .. | .timerArmedW .. | .timerIntrW .. => True
      | .uartIlprW .. | .uartIbrdW .. | .uartFbrdW .. | .uartLcrhW .. | .uartCrW .. | .uartIflsW .. | .uartImscW ..
      | .uartDmacrW .. | .gpioCtrlW .. | .gpioP0inteW .. | .gpioP1inteW .. | .timerPauseW .. | .timerInteW .. => True
      | _ => False) →
    exec i s = .next t → exec i t = .next t

/-- A byte is sent only by an enabled UART, and a send appends one byte to that UART's list and touches no other UART's. -/
def Obligations.BytesAreSentByEnabledUartsOnly : Prop :=
  ∀ (i : Instr) (s t : State), exec i s = .next t →
    t.txLog = s.txLog ∨
    ∃ (u : Nat) (U : Uart) (b : Byte), s.uarts[u]? = some U ∧ U.cr.getLsbD 0 = true ∧ U.cr.getLsbD 8 = true ∧
      t.txLog = s.txLog.set u (s.txLog.getD u [] ++ [b])

/-! Lines, reset, snapshot and restore. -/

/-- The interrupt lines are functions of state; a GPIO line goes to its own core's controller and, in the default wiring (log
entry 8), every UART and timer line to both. -/
def Obligations.InterruptLinesFollowState : Prop :=
  (∀ (s : State) (u : Nat) (U : Uart), s.uarts[u]? = some U → (s.uartIrq u = true ↔ U.ris &&& U.imsc ≠ 0)) ∧
  (∀ s : State, (s.gpioIrq .core0 = true ↔ ∃ r : Fin 4, s.gpio.intr[r] &&& s.gpio.inte0[r] ≠ 0) ∧
    (s.gpioIrq .core1 = true ↔ ∃ r : Fin 4, s.gpio.intr[r] &&& s.gpio.inte1[r] ≠ 0)) ∧
  (∀ (s : State) (k : Fin 4), s.timerIrq k = (s.timer.intr.getLsbD k.val && s.timer.inte.getLsbD k.val)) ∧
  (∀ (cfg : Config) (g c : CoreId), lineWiredTo cfg (.gpio g) c = true ↔ g = c) ∧
  (∀ (c : CoreId) (u : Fin 2) (k : Fin 4),
    lineWiredTo .default (.uart u) c = true ∧ lineWiredTo .default (.timer k) c = true)

/-- A machine reset puts every device at its reset column and keeps the clock, RAM, the diagnostic log and the sent bytes; the
counter is then 0 and every line 0. -/
def Obligations.MachineResetRestoresTheResetColumns : Prop :=
  ∀ s : State, ∃ t : State,
    exec .hostReset s = .next t ∧
    t = { s with
      uarts := List.replicate s.cfg.uartCount {
        fifoBuf := Vector.replicate 32 0, fifoRd := 0, fifoWr := 0, fifoLen := 0, cr := 0x0300, lcrH := 0, ibrd := 0, fbrd := 0,
        ilpr := 0, ifls := 0x12, imsc := 0, ris := 0, dmacr := 0 }
      gpio := {
        funcsel := Vector.replicate 30 0x1F, level := Vector.replicate 30 false, intr := Vector.replicate 4 0,
        inte0 := Vector.replicate 4 0, inte1 := Vector.replicate 4 0 }
      timer := {
        base := s.clockNow, paused := false, frozen := 0, latch := Vector.replicate 2 0, target := Vector.replicate 4 0,
        armed := 0, intr := 0, inte := 0 }
      reply := .done } ∧
    t.counter = 0 ∧ ∀ l : Line, t.lineLevel l = false

/-- Power-on is a machine reset applied to free inputs: whatever the devices, the clock and RAM hold before, the reset of a state
with empty logs gives the power-on state of that clock and that RAM (but for the model's own fields). -/
def Obligations.PowerOnIsResetOfFreeInputs : Prop :=
  ∀ s : State, s.diag = [] → s.txLog = List.replicate s.cfg.uartCount [] →
    exec .hostReset s =
      .next { State.powerOn s.cfg s.clockNow s.sram with draws := s.draws, pending := s.pending, reply := .done }

/-- A configuration that fails one of the five checks of 00_scope.md R9, or one of the two that log entry 18 adds (a UART at least,
and one wiring entry for each), has no initial state; every other one has. That an image whose bytes are left open has the length it
is given with, and that the default configuration leaves its two images open at the sizes of their regions and so has an initial state,
is the model's choice (log entry 7), over the default addresses and sizes (log entry 8). -/
def Obligations.CompositionErrorHasNoInitialState : Prop :=
  (∀ (cfg : Config) (x : Time) (m : Memory),
    let memories : List (Nat × Nat) := [(cfg.romBase, cfg.romSize), (cfg.xipBase, cfg.xipSize), (cfg.sramBase, cfg.sramSize)]
    let windows : List (Nat × Nat) :=
      cfg.uartBase.map (fun base => (base, 0x1000)) ++ [(cfg.gpioBase, 0x1000), (cfg.timerBase, 0x1000)] ++ cfg.stubWindows
    let passes : Prop :=
      (memories ++ windows).Pairwise (fun a b => a.1 + a.2 ≤ b.1 ∨ b.1 + b.2 ≤ a.1) ∧
      (∀ w ∈ windows, w.2 = 0x1000 ∧ w.1 % 0x1000 = 0) ∧
      (∀ r ∈ memories, 0 < r.2 ∧ r.2 % 4 = 0 ∧ r.1 % 4 = 0) ∧
      (∀ r ∈ memories ++ windows, r.1 + r.2 ≤ 2 ^ 32) ∧
      cfg.romImage.length = cfg.romSize ∧ cfg.xipImage.length = cfg.xipSize ∧
      1 ≤ cfg.uartBase.length ∧ cfg.uartWiring.length = cfg.uartBase.length
    (¬ passes → State.init cfg x m = none) ∧ (passes → State.init cfg x m = some (State.powerOn cfg x m))) ∧
  (∀ bytes : List Byte, (Image.given bytes).length = bytes.length) ∧
  (∀ size id : Nat, (Image.unknown size id).length = size) ∧
  (∀ (x : Time) (m : Memory), State.init .default x m = some (State.powerOn .default x m))

/-- A snapshot gives the host every device field, the counter in place of base and frozen, and changes nothing. -/
def Obligations.SnapshotGivesTheDeviceFields : Prop :=
  ∀ s : State, exec .hostSnapshot s = .next { s with
    reply := .snapshot {
      uarts := s.uarts, gpio := s.gpio, paused := s.timer.paused, latch := s.timer.latch, target := s.timer.target,
      armed := s.timer.armed, intr := s.timer.intr, inte := s.timer.inte, counter := s.counter } }

/-- A restore copies every device field, makes the counter the record's, fires the alarms already past and leaves the future ones
armed; the clock, RAM, the diagnostic log and the sent bytes stay. Every UART field is copied, the cursors as the record has them (log
entry 13), but bits UARTCR does not store are not restored (10_state.md R37, log entry 11). -/
def Obligations.RestoreRearmsOrFires : Prop :=
  ∀ (snap : Snapshot) (s : State),
    snap.uarts.length = s.cfg.uartCount → (∀ U ∈ snap.uarts, U.fifoLen ≤ 32) → snap.gpio.inRange →
    ∃ T : Timer,
      exec (.hostRestore snap) s = .next { s with
        uarts := snap.uarts.map fun U => { U with cr := U.cr &&& 0xFF87 }
        gpio := snap.gpio, timer := T, reply := .done } ∧
      T.counter s.clockNow = snap.counter ∧ T.paused = snap.paused ∧ T.latch = snap.latch ∧ T.target = snap.target ∧
      T.inte = snap.inte ∧
      T.base = (if snap.paused then s.timer.base else s.clockNow - snap.counter) ∧
      T.frozen = (if snap.paused then snap.counter else s.timer.frozen) ∧
      (∀ k : Fin 4,
        T.armed.getLsbD k.val = (snap.armed.getLsbD k.val && decide (snap.counter < snap.target[k])) ∧
        T.intr.getLsbD k.val = (snap.intr.getLsbD k.val || snap.armed.getLsbD k.val && decide (snap.target[k] ≤ snap.counter)))

/-- The snapshot of a state the invariant holds of, restored into any state of the same configuration at any clock time, brings back
every device field, the counter and every armed alarm. -/
def Obligations.RestoreUndoesSnapshot : Prop :=
  ∀ s s₂ t : State, s.Inv → s₂.cfg = s.cfg →
    exec (.hostRestore s.takeSnapshot) s₂ = .next t →
    t.uarts = s.uarts ∧ t.gpio = s.gpio ∧ t.counter = s.counter ∧ t.timer.paused = s.timer.paused ∧
    t.timer.latch = s.timer.latch ∧ t.timer.target = s.timer.target ∧ t.timer.armed = s.timer.armed ∧
    t.timer.intr = s.timer.intr ∧ t.timer.inte = s.timer.inte ∧ t.clockNow = s₂.clockNow ∧ t.sram = s₂.sram ∧
    t.diag = s₂.diag ∧ t.txLog = s₂.txLog

/-- The record of a HOST.RESTORE with a field that does not fit its width (10_state.md R33, R50, R60), or with another number of
entries in a field, is refused; one whose fields fit is taken as it stands. A snapshot with a length beyond the FIFO, a register 3
beyond 24 bits, or another number of UARTs is refused too (log entry 12; the two latch slots are log entry 14). -/
def Obligations.MisfitSnapshotIsRefused : Prop :=
  (∀ e : Evt, e.code = 0x7 →
    let fit (n bits : Nat) (xs : List Nat) : Prop := xs.length = n ∧ ∀ x ∈ xs, x < 2 ^ bits
    let fits : Prop :=
      (∀ U ∈ e.snap.uarts, fit 32 8 U.fifoBuf ∧ U.fifoRd < 2 ^ 5 ∧ U.fifoWr < 2 ^ 5 ∧ U.fifoLen ≤ 32 ∧ U.cr < 2 ^ 16 ∧
        U.lcrH < 2 ^ 8 ∧ U.ibrd < 2 ^ 16 ∧ U.fbrd < 2 ^ 6 ∧ U.ilpr < 2 ^ 8 ∧ U.ifls < 2 ^ 6 ∧ U.imsc < 2 ^ 11 ∧
        U.ris < 2 ^ 11 ∧ U.dmacr < 2 ^ 3) ∧
      fit 30 5 e.snap.funcsel ∧ fit 30 1 e.snap.level ∧
      (∀ xs ∈ [e.snap.gpioIntr, e.snap.inte0, e.snap.inte1], fit 4 32 xs ∧ ∀ x ∈ xs[3]?, x < 2 ^ 24) ∧
      e.snap.paused < 2 ^ 1 ∧ fit 2 64 e.snap.latch ∧ fit 4 64 e.snap.target ∧ e.snap.armed < 2 ^ 4 ∧
      e.snap.timerIntr < 2 ^ 4 ∧ e.snap.timerInte < 2 ^ 4 ∧ e.snap.counter < 2 ^ 64
    (¬ fits → decode (.evt e) = .error .snapshotMisfit) ∧
    (fits → ∃ snap, decode (.evt e) = .ok (.hostRestore snap) ∧ rawOfSnapshot snap = e.snap)) ∧
  ∀ (snap : Snapshot) (s : State),
    (snap.uarts.length ≠ s.cfg.uartCount ∨ (∃ U ∈ snap.uarts, 32 < U.fifoLen) ∨ ¬ snap.gpio.inRange) →
    exec (.hostRestore snap) s = .refused .snapshotMisfit

/-! Invariants. -/

/-- The invariant holds, and the FIFO cursors agree, right after power-on: at the model's reset state (its clock of 0 is the model's
choice, log entry 6), and for every composition that passes the checks, every clock value and every RAM in canonical form. -/
def Obligations.InvariantHoldsAtPowerOn : Prop :=
  (State.reset.Inv ∧ State.reset.cursorsAgree) ∧
  ∀ (cfg : Config) (x : Time) (m : Memory), cfg.ok = true → m.wf → (∀ cell ∈ m, cell.1 < cfg.sramSize) →
    (State.powerOn cfg x m).Inv ∧ (State.powerOn cfg x m).cursorsAgree

/-- Every step keeps the invariant: the composition stands, RAM stays in canonical form within its size, every FIFO length is at most
its capacity, unstored bits stay 0, and no alarm is ever armed at or past its target. The FIFO cursors stay in agreement too, unless
the step restores a host's record whose cursors disagree (log entry 13). -/
def Obligations.EveryStepKeepsTheInvariant : Prop :=
  (∀ s t : State, s.Inv → step s = .next t → t.Inv) ∧
  (∀ s t : State, s.cursorsAgree → s.nextKeepsCursors → step s = .next t → t.cursorsAgree)

/-- In every reachable state each UART's write cursor is (fifo_rd + fifo_len) mod 32 (10_state.md R34; what counts as reachable after
a restore is log entry 13). Every operation keeps it so, a restore exactly when the record's cursors agree, as those of every snapshot
taken of such a state do. -/
def Obligations.CursorsAgreeIsKept : Prop :=
  (∀ s : State, s.Reachable → s.cursorsAgree) ∧
  (∀ (i : Instr) (s t : State), s.cursorsAgree → (∀ snap, i ≠ .hostRestore snap) → exec i s = .next t → t.cursorsAgree) ∧
  (∀ (snap : Snapshot) (s t : State), exec (.hostRestore snap) s = .next t →
    (t.cursorsAgree ↔ ∀ U ∈ snap.uarts, U.cursorsAgree)) ∧
  (∀ s : State, s.cursorsAgree → ∀ U ∈ s.takeSnapshot.uarts, U.cursorsAgree)

/-- No operation changes the configuration or the operations still to run. -/
def Obligations.OperationsKeepConfigurationAndQueue : Prop :=
  ∀ (i : Instr) (s t : State), exec i s = .next t → t.cfg = s.cfg ∧ t.pending = s.pending
end

