-- ==== Sys2Proof/Laws/Decode.lean ====
section
/-! SUPPORT. How a device selector is decoded: the rows of one device exclude each other, and which row a selector chooses is found by
its index. -/

namespace Sys2Proof

open Machine

/-- No two rows of a table without range conditions claim one selector: wherever both masks look, their patterns differ. -/
def rowsApart (x y : SelRow) : Bool := x.pat &&& y.mask != y.pat &&& x.mask

theorem uartRows_exclusive : uartRows.Pairwise fun x y => rowsApart x y = true := by decide

theorem timerRows_exclusive : timerRows.Pairwise fun x y => rowsApart x y = true := by decide

/-- Rows that are apart never both apply. -/
theorem not_both_apply {x y : SelRow} (h : rowsApart x y = true) (sel : BitVec 13) :
    ¬ (x.applies sel = true ∧ y.applies sel = true) := by
  rintro ⟨hx, hy⟩
  simp only [SelRow.applies, Bool.and_eq_true, beq_iff_eq] at hx hy
  have : x.pat &&& y.mask = y.pat &&& x.mask := by
    rw [← hx.1, ← hy.1, BitVec.and_assoc, BitVec.and_assoc, BitVec.and_comm x.mask]
  simp [rowsApart, this] at h

/-- The GPIO's per-pin rows exclude each other, and so do its four-register rows. -/
theorem gpioRows_exclusive :
    (gpioRows.take 4).Pairwise (fun x y => rowsApart x y = true) ∧ (gpioRows.drop 4).Pairwise (fun x y => rowsApart x y = true) := by
  decide

/-- The INTR, INTE and INTS offsets lie outside the range condition of STATUS and CTRL. -/
theorem gpioRows_outside_pins : ∀ r : Fin 4, ∀ base ∈ [0x0F0, 0x100, 0x120, 0x130, 0x150],
    29 < pinNumber (BitVec.ofNat 12 (base + 4 * r.val)) := by
  decide

/-- The row a selector chooses, by its index in the device's table. -/
theorem decodeSel_of_findIdx {port : DevPort} {sel : BitVec 13} {i : Nat} {row : SelRow} (c : CoreId) (v : Word)
    (h : (selRows port).findIdx? (·.applies sel) = some i) (hr : (selRows port)[i]? = some row) :
    decodeSel port sel c v = row.op ⟨c, portIndex port, selOffset sel, v⟩ := by
  have hf : (selRows port).find? (·.applies sel) = some row := by
    rw [List.findIdx?_eq_some_iff_getElem] at h
    obtain ⟨hi, hp, hlt⟩ := h
    rw [List.getElem?_eq_getElem hi, Option.some.injEq] at hr
    subst hr
    rw [List.find?_eq_some_iff_getElem]
    exact ⟨hp, i, hi, rfl, fun j hj => by simpa using hlt j hj⟩
  simp only [decodeSel, hf]

/-- A selector no row applies to is reserved. -/
theorem decodeSel_of_none {port : DevPort} {sel : BitVec 13} (c : CoreId) (v : Word)
    (h : (selRows port).findIdx? (·.applies sel) = none) :
    decodeSel port sel c v = reservedRow port (selDir sel) (selOffset sel) c v := by
  have hf : (selRows port).find? (·.applies sel) = none := by
    rw [List.findIdx?_eq_none_iff] at h
    simpa [List.find?_eq_none] using h
  simp only [decodeSel, hf]

@[simp] theorem selOffset_selector (dir : Dir) (off : BitVec 12) : selOffset (selector dir off) = off := by
  apply BitVec.eq_of_getLsbD_eq
  intro i hi
  have h13 : i < 13 := by omega
  simp only [selOffset, selector, BitVec.getLsbD_extractLsb', BitVec.getLsbD_or, BitVec.getLsbD_shiftLeft, BitVec.getLsbD_setWidth]
  simp [hi, h13]

@[simp] theorem selDir_selector (dir : Dir) (off : BitVec 12) : selDir (selector dir off) = dir := by
  cases dir <;> simp [selDir, selector, bitOfDir]

/-- A selector is its direction and its offset. -/
theorem selector_parts (sel : BitVec 13) : selector (selDir sel) (selOffset sel) = sel := by
  have hd : bitOfDir (selDir sel) = BitVec.ofBool (sel.getLsbD 12) := by
    unfold selDir
    cases sel.getLsbD 12 <;> rfl
  unfold selector
  rw [hd]
  apply BitVec.eq_of_getLsbD_eq
  intro i hi
  simp only [selOffset, BitVec.getLsbD_or, BitVec.getLsbD_shiftLeft, BitVec.getLsbD_setWidth, BitVec.getLsbD_extractLsb', hi, decide_true, Bool.true_and,
    Nat.zero_add]
  by_cases h : i < 12
  · simp [h]
  · have h12 : i = 12 := by omega
    subst h12
    simp

theorem gpioRows_pin : ∀ p : Fin 30,
    gpioRows.findIdx? (·.applies (BitVec.ofNat 13 (8 * p.val))) = some 0 ∧
    gpioRows.findIdx? (·.applies (BitVec.ofNat 13 (0x1000 + 8 * p.val))) = some 1 ∧
    gpioRows.findIdx? (·.applies (BitVec.ofNat 13 (0x0004 + 8 * p.val))) = some 2 ∧
    gpioRows.findIdx? (·.applies (BitVec.ofNat 13 (0x1004 + 8 * p.val))) = some 3 := by decide

theorem pinOf_selectors : ∀ p : Fin 30,
    pinOf (selOffset (BitVec.ofNat 13 (8 * p.val))) = p ∧ pinOf (selOffset (BitVec.ofNat 13 (0x1000 + 8 * p.val))) = p ∧
    pinOf (selOffset (BitVec.ofNat 13 (0x0004 + 8 * p.val))) = p ∧
    pinOf (selOffset (BitVec.ofNat 13 (0x1004 + 8 * p.val))) = p := by decide

/-- The rows of the four-register families, by their first selector. -/
def fourRegRows : List (Nat × Nat) :=
  [(0x00F0, 4), (0x10F0, 5), (0x0100, 6), (0x1100, 7), (0x0120, 8), (0x1120, 9), (0x0130, 10), (0x1130, 11), (0x0150, 12), (0x1150, 13)]

theorem gpioRows_reg : ∀ r : Fin 4, ∀ row ∈ fourRegRows,
    gpioRows.findIdx? (·.applies (BitVec.ofNat 13 (row.1 + 4 * r.val))) = some row.2 ∧
    regOf (selOffset (BitVec.ofNat 13 (row.1 + 4 * r.val))) = r := by decide

theorem timerRows_alarm : ∀ k : Fin 4,
    timerRows.findIdx? (·.applies (BitVec.ofNat 13 (0x0010 + 4 * k.val))) = some 8 ∧
    timerRows.findIdx? (·.applies (BitVec.ofNat 13 (0x1010 + 4 * k.val))) = some 9 ∧
    regOf (selOffset (BitVec.ofNat 13 (0x0010 + 4 * k.val))) = k ∧
    regOf (selOffset (BitVec.ofNat 13 (0x1010 + 4 * k.val))) = k := by decide

/-- The register map of a device. -/
def listedOffset : DevPort → BitVec 12 → Bool
  | .uart _ => uartRegisterOffset
  | .gpio => gpioRegisterOffset
  | .timer => timerRegisterOffset

/-- What a mask fixes and what it leaves. -/
theorem eq_or_of_and_eq {n : Nat} {x m p : BitVec n} (h : x &&& m = p) : x = p ||| (x &&& ~~~m) := by
  subst h
  apply BitVec.eq_of_getLsbD_eq
  intro i hi
  simp only [BitVec.getLsbD_or, BitVec.getLsbD_and, BitVec.getLsbD_not, hi, decide_true, Bool.true_and]
  cases x.getLsbD i <;> cases m.getLsbD i <;> rfl

/-- A selector is its full pattern when the mask has every bit. -/
theorem sel_of_full {sel p : BitVec 13} (h : sel &&& 0x1FFF = p) : sel = p := by
  have := eq_or_of_and_eq h
  simpa using this

/-- A selector of a four-register row is its pattern with the register's index at bits 3:2. -/
theorem sel_of_reg {sel p : BitVec 13} (h : sel &&& 0x1FF3 = p) : sel = p ||| (sel.extractLsb' 2 2).setWidth 13 <<< 2 := by
  have hf : sel &&& ~~~0x1FF3#13 = (sel.extractLsb' 2 2).setWidth 13 <<< 2 := by
    apply BitVec.eq_of_getLsbD_eq
    intro i hi
    have hm : ∀ j : Fin 13, (~~~0x1FF3#13).getLsbD j.val = decide (2 ≤ j.val ∧ j.val < 4) := by decide
    simp only [BitVec.getLsbD_and, hm ⟨i, hi⟩, BitVec.getLsbD_shiftLeft, BitVec.getLsbD_setWidth, BitVec.getLsbD_extractLsb']
    by_cases h1 : i < 2
    · simp [h1]
    by_cases h2 : i < 4
    · have h3 : 2 + (i - 2) = i := by omega
      have h4 : i - 2 < 2 := by omega
      have h5 : i - 2 < 13 := by omega
      have h6 : 2 ≤ i := by omega
      simp [h1, h2, h3, h4, h5, h6, hi]
    · have h4 : ¬ i - 2 < 2 := by omega
      simp [h2, h4]
  rw [← hf]
  exact eq_or_of_and_eq h

/-- A selector of a per-pin row is its pattern with the pin's index at bits 11:3. -/
theorem sel_of_pin {sel p : BitVec 13} (h : sel &&& 0x1007 = p) : sel = p ||| (sel.extractLsb' 3 9).setWidth 13 <<< 3 := by
  have hf : sel &&& ~~~0x1007#13 = (sel.extractLsb' 3 9).setWidth 13 <<< 3 := by
    apply BitVec.eq_of_getLsbD_eq
    intro i hi
    have hm : ∀ j : Fin 13, (~~~0x1007#13).getLsbD j.val = decide (3 ≤ j.val ∧ j.val < 12) := by decide
    simp only [BitVec.getLsbD_and, hm ⟨i, hi⟩, BitVec.getLsbD_shiftLeft, BitVec.getLsbD_setWidth, BitVec.getLsbD_extractLsb']
    by_cases h1 : i < 3
    · simp [h1]
    by_cases h2 : i < 12
    · have h3 : 3 + (i - 3) = i := by omega
      have h4 : i - 3 < 9 := by omega
      have h5 : i - 3 < 13 := by omega
      have h6 : 3 ≤ i := by omega
      simp [h1, h2, h3, h4, h5, h6, hi]
    · have h4 : ¬ i - 3 < 9 := by omega
      simp [h2, h4]
  rw [← hf]
  exact eq_or_of_and_eq h

/-- A property of the offsets a row takes, by the row's mask. -/
theorem listed_reg (f : BitVec 12 → Bool) (p : BitVec 13)
    (h : ∀ x : BitVec 2, f (selOffset (p ||| x.setWidth 13 <<< 2)) = true) (sel : BitVec 13) (hs : sel &&& 0x1FF3 = p) : f (selOffset sel) = true := by
  rw [sel_of_reg hs]
  exact h _

theorem listed_full (f : BitVec 12 → Bool) (p : BitVec 13) (h : f (selOffset p) = true) (sel : BitVec 13)
    (hs : sel &&& 0x1FFF = p) : f (selOffset sel) = true := by
  rw [sel_of_full hs]
  exact h

theorem pinNumber_sel (sel : BitVec 13) : pinNumber (selOffset sel) = (sel.extractLsb' 3 9).toNat := by
  unfold pinNumber selOffset
  congr 1
  apply BitVec.eq_of_getLsbD_eq
  intro i hi
  simp [hi]

theorem listed_pin (f : BitVec 12 → Bool) (p : BitVec 13)
    (h : ∀ x : Fin 30, f (selOffset (p ||| (BitVec.ofNat 9 x.val).setWidth 13 <<< 3)) = true) (sel : BitVec 13)
    (hs : sel &&& 0x1007 = p) (hp : pinNumber (selOffset sel) ≤ 29) : f (selOffset sel) = true := by
  rw [pinNumber_sel] at hp
  have := h ⟨(sel.extractLsb' 3 9).toNat, by omega⟩
  rw [BitVec.ofNat_toNat, BitVec.setWidth_eq] at this
  rw [sel_of_pin hs]
  exact this

/-- Every selector a row of a device takes has an offset of the device's register map (10_state.md R36, R52, R62). -/
theorem selRows_listed (port : DevPort) :
    ∀ row ∈ selRows port, ∀ sel, row.applies sel = true → listedOffset port (selOffset sel) = true := by
  simp only [SelRow.applies, Bool.and_eq_true, beq_iff_eq]
  cases port
  case uart u =>
    (repeat' refine List.forall_mem_cons.2 ⟨fun sel h => listed_full uartRegisterOffset _ (by decide) sel h.1, ?_⟩)
    exact fun _ h => absurd h List.not_mem_nil
  case timer =>
    (repeat' refine List.forall_mem_cons.2 ⟨fun sel h => (by
      first
        | exact listed_full timerRegisterOffset _ (by decide) sel h.1
        | exact listed_reg timerRegisterOffset _ (by decide) sel h.1), ?_⟩)
    exact fun _ h => absurd h List.not_mem_nil
  case gpio =>
    (repeat' refine List.forall_mem_cons.2 ⟨fun sel h => (by
      first
        | exact listed_pin gpioRegisterOffset _ (by decide) sel h.1 (of_decide_eq_true h.2)
        | exact listed_reg gpioRegisterOffset _ (by decide) sel h.1), ?_⟩)
    exact fun _ h => absurd h List.not_mem_nil
/-- A selector as a number. -/
theorem selector_ofNat (dir : Dir) (n : Nat) (h : n < 4096) :
    selector dir (BitVec.ofNat 12 n) = BitVec.ofNat 13 ((match dir with | .read => 0 | .write => 4096) + n) := by
  apply BitVec.eq_of_toNat_eq
  have hor : 4096 ||| n = 4096 + n := (Nat.two_pow_add_eq_or_of_lt (i := 12) h 1).symm
  have h13 : n % 8192 = n := Nat.mod_eq_of_lt (by omega)
  cases dir <;> simp [selector, bitOfDir, Nat.mod_eq_of_lt h, h13, hor]
  omega

/-- The UART rows have a row for every listed offset, in each direction. -/
theorem uartRows_cover : ∀ n ∈ [0x000, 0x004, 0x018, 0x020, 0x024, 0x028, 0x02C, 0x030, 0x034, 0x038, 0x03C, 0x040, 0x044, 0x048],
    (uartRows.findIdx? (·.applies (BitVec.ofNat 13 (0 + n)))).isSome = true ∧
    (uartRows.findIdx? (·.applies (BitVec.ofNat 13 (4096 + n)))).isSome = true := by decide

theorem gpioRows_cover : ∀ q : Fin 88, gpioRegisterOffset (BitVec.ofNat 12 (4 * q.val)) = true →
    (gpioRows.findIdx? (·.applies (BitVec.ofNat 13 (0 + 4 * q.val)))).isSome = true ∧
    (gpioRows.findIdx? (·.applies (BitVec.ofNat 13 (4096 + 4 * q.val)))).isSome = true := by decide

theorem timerRows_cover : ∀ q : Fin 17, timerRegisterOffset (BitVec.ofNat 12 (4 * q.val)) = true →
    (timerRows.findIdx? (·.applies (BitVec.ofNat 13 (0 + 4 * q.val)))).isSome = true ∧
    (timerRows.findIdx? (·.applies (BitVec.ofNat 13 (4096 + 4 * q.val)))).isSome = true := by decide

/-- Every register of a device's map has a row in each direction. -/
theorem selRows_cover (port : DevPort) (dir : Dir) (off : BitVec 12) (h : listedOffset port off = true) :
    ((selRows port).findIdx? (·.applies (selector dir off))).isSome = true := by
  have hoff : off = BitVec.ofNat 12 off.toNat := by rw [BitVec.ofNat_toNat, BitVec.setWidth_eq]
  rw [hoff, selector_ofNat dir _ off.isLt]
  cases port with
  | uart u =>
    have hm : ∀ off : BitVec 12, uartRegisterOffset off = true →
        off.toNat ∈ [0x000, 0x004, 0x018, 0x020, 0x024, 0x028, 0x02C, 0x030, 0x034, 0x038, 0x03C, 0x040, 0x044, 0x048] := by
      intro off h
      have h := List.mem_map_of_mem (f := BitVec.toNat) (of_decide_eq_true h)
      exact h
    have := uartRows_cover off.toNat (hm off h)
    cases dir
    · exact this.1
    · exact this.2
  | gpio =>
    simp only [listedOffset] at h
    have h' := h
    simp only [gpioRegisterOffset, Bool.and_eq_true, Bool.or_eq_true, decide_eq_true_eq] at h'
    have hq : off.toNat / 4 < 88 := by omega
    have h4 : 4 * (off.toNat / 4) = off.toNat := by omega
    have := gpioRows_cover ⟨off.toNat / 4, hq⟩ (by simp only [h4]; rw [← hoff]; exact h)
    simp only [h4] at this
    cases dir
    · exact this.1
    · exact this.2
  | timer =>
    simp only [listedOffset] at h
    have h' := h
    simp only [timerRegisterOffset, Bool.and_eq_true, decide_eq_true_eq] at h'
    have hq : off.toNat / 4 < 17 := by omega
    have h4 : 4 * (off.toNat / 4) = off.toNat := by omega
    have := timerRows_cover ⟨off.toNat / 4, hq⟩ (by simp only [h4]; rw [← hoff]; exact h)
    simp only [h4] at this
    cases dir
    · exact this.1
    · exact this.2

/-- No row takes a selector whose offset no register has. -/
theorem selRows_none {port : DevPort} {sel : BitVec 13} (h : listedOffset port (selOffset sel) = false) :
    (selRows port).findIdx? (·.applies sel) = none := by
  rw [List.findIdx?_eq_none_iff]
  intro row hrow
  by_contra hc
  have := selRows_listed port row hrow sel (by simpa using hc)
  rw [h] at this
  cases this

/-- The host's number for a field that fits is the field. -/
theorem fitNat_toNat {w : Nat} (x : BitVec w) : fitNat w x.toNat = some x := by
  simp [fitNat, x.isLt]

theorem fitBool_toNat (b : Bool) : fitBool b.toNat = some b := by cases b <;> rfl

theorem fitAll_map {α : Type} {f : Nat → Option α} {g : α → Nat} (h : ∀ x, f (g x) = some x) (xs : List α) :
    fitAll f (xs.map g) = some xs := by
  induction xs with
  | nil => rfl
  | cons x xs ih => simp [fitAll, h, ih]

theorem fitVec_map {α : Type} {f : Nat → Option α} {g : α → Nat} (h : ∀ x, f (g x) = some x) {n : Nat} (xs : Vector α n) :
    fitVec f n (xs.toList.map g) = some xs := by
  simp [fitVec, fitAll_map h, Vector.toList]

theorem fitUart_rawOfUart (U : Uart) : fitUart (rawOfUart U) = some U := by
  simp [fitUart, rawOfUart, fitVec_map fitNat_toNat, fitNat_toNat]

theorem fitUarts_map (Us : List Uart) : fitUarts (Us.map rawOfUart) = some Us := by
  induction Us with
  | nil => rfl
  | cons U Us ih => simp [fitUarts, fitUart_rawOfUart, ih]

/-- Every field of a record written out from a snapshot is read back. -/
theorem fitFields_rawOfSnapshot (snap : Snapshot) : fitFields (rawOfSnapshot snap) = some snap := by
  simp [fitFields, rawOfSnapshot, fitUarts_map, fitGpio, fitVec_map fitNat_toNat, fitVec_map fitBool_toNat, fitNat_toNat, fitBool_toNat]

/-- A number that fits a width is read as the field with that value, and no other number is read. -/
theorem fitNat_eq_some {w n : Nat} {x : BitVec w} : fitNat w n = some x ↔ x.toNat = n := by
  constructor
  · intro h
    unfold fitNat at h
    split at h
    · next hn => cases h; simp [Nat.mod_eq_of_lt hn]
    · cases h
  · rintro rfl; exact fitNat_toNat x

/-- The same of one bit. -/
theorem fitBool_eq_some {n : Nat} {b : Bool} : fitBool n = some b ↔ b.toNat = n := by
  constructor
  · intro h
    unfold fitBool at h
    split at h
    · next hn => cases h; rcases (by omega : n = 0 ∨ n = 1) with rfl | rfl <;> rfl
    · cases h
  · rintro rfl; exact fitBool_toNat b

/-- A list is read exactly when each of its entries is. -/
theorem fitAll_eq_some {α : Type} {f : Nat → Option α} {g : α → Nat} (h : ∀ {n x}, f n = some x ↔ g x = n) {ns : List Nat} {xs : List α} :
    fitAll f ns = some xs ↔ xs.map g = ns := by
  constructor
  · intro hs
    induction ns generalizing xs with
    | nil => cases hs; rfl
    | cons n ns ih =>
      simp only [fitAll, Option.bind_eq_bind, Option.bind_eq_some_iff] at hs
      obtain ⟨y, hy, ys, hys, hs⟩ := hs
      cases hs
      rw [List.map_cons, h.1 hy, ih hys]
  · rintro rfl; exact fitAll_map (fun x => h.2 rfl) xs

/-- A list is read as a fixed number of fields exactly when it is those fields written out. -/
theorem fitVec_eq_some {α : Type} {f : Nat → Option α} {g : α → Nat} (h : ∀ {n x}, f n = some x ↔ g x = n) {n : Nat} {ns : List Nat}
    {v : Vector α n} : fitVec f n ns = some v ↔ v.toList.map g = ns := by
  constructor
  · intro hs
    simp only [fitVec, Option.bind_eq_bind, Option.bind_eq_some_iff] at hs
    obtain ⟨ys, hys, hs⟩ := hs
    split at hs
    · cases hs; exact (fitAll_eq_some h).1 hys
    · cases hs
  · rintro rfl; exact fitVec_map (fun x => h.2 rfl) v

/-- A UART's record is read exactly when it is a UART written out. -/
theorem fitUart_eq_some {x : RawUart} {U : Uart} : fitUart x = some U ↔ rawOfUart U = x := by
  constructor
  · intro h
    simp only [fitUart, Option.bind_eq_bind, Option.bind_eq_some_iff, fitNat_eq_some, fitVec_eq_some fitNat_eq_some] at h
    obtain ⟨_, h1, _, h2, _, h3, _, h4, _, h5, _, h6, _, h7, _, h8, _, h9, _, h10, _, h11, _, h12, h⟩ := h
    cases h
    simp only [rawOfUart, h1, h2, h3, h4, h5, h6, h7, h8, h9, h10, h11, h12]
  · rintro rfl; exact fitUart_rawOfUart U

/-- The same of the list of the UARTs' records. -/
theorem fitUarts_eq_some {xs : List RawUart} {Us : List Uart} : fitUarts xs = some Us ↔ Us.map rawOfUart = xs := by
  constructor
  · intro h
    induction xs generalizing Us with
    | nil => cases h; rfl
    | cons x xs ih =>
      simp only [fitUarts, Option.bind_eq_bind, Option.bind_eq_some_iff] at h
      obtain ⟨U, hU, Vs, hVs, h⟩ := h
      cases h
      rw [List.map_cons, fitUart_eq_some.1 hU, ih hVs]
  · rintro rfl; exact fitUarts_map Us

/-- A snapshot's record is read exactly when it is a snapshot written out, so a record that is read is taken as it stands
(70_reset_and_hazards.md R451). -/
theorem fitFields_eq_some {x : RawSnapshot} {snap : Snapshot} : fitFields x = some snap ↔ rawOfSnapshot snap = x := by
  constructor
  · intro h
    simp only [fitFields, fitGpio, Option.bind_eq_bind, Option.bind_eq_some_iff, fitNat_eq_some, fitBool_eq_some,
      fitVec_eq_some fitNat_eq_some, fitVec_eq_some fitBool_eq_some, fitUarts_eq_some] at h
    obtain ⟨_, h1, _, ⟨_, h2, _, h3, _, h4, _, h5, _, h6, hg⟩, _, h7, _, h8, _, h9, _, h10, _, h11, _, h12, _, h13, h⟩ := h
    cases hg
    cases h
    simp only [rawOfSnapshot, h1, h2, h3, h4, h5, h6, h7, h8, h9, h10, h11, h12, h13]
  · rintro rfl; exact fitFields_rawOfSnapshot snap

end Sys2Proof
end

