-- ==== Sys2Proof/Laws/State.lean ====
section
/-! SUPPORT. What each named update of State does to each field, so that no proof unfolds a record update. -/

namespace Sys2Proof.Machine

@[simp] theorem State.answer_cfg (s : State) (c : CoreId) (v : Word) : (s.answer c v).cfg = s.cfg := rfl
@[simp] theorem State.answer_uarts (s : State) (c : CoreId) (v : Word) : (s.answer c v).uarts = s.uarts := rfl
@[simp] theorem State.answer_gpio (s : State) (c : CoreId) (v : Word) : (s.answer c v).gpio = s.gpio := rfl
@[simp] theorem State.answer_timer (s : State) (c : CoreId) (v : Word) : (s.answer c v).timer = s.timer := rfl
@[simp] theorem State.answer_clockNow (s : State) (c : CoreId) (v : Word) : (s.answer c v).clockNow = s.clockNow := rfl
@[simp] theorem State.answer_sram (s : State) (c : CoreId) (v : Word) : (s.answer c v).sram = s.sram := rfl
@[simp] theorem State.answer_diag (s : State) (c : CoreId) (v : Word) : (s.answer c v).diag = s.diag := rfl
@[simp] theorem State.answer_txLog (s : State) (c : CoreId) (v : Word) : (s.answer c v).txLog = s.txLog := rfl
@[simp] theorem State.answer_draws (s : State) (c : CoreId) (v : Word) : (s.answer c v).draws = s.draws := rfl
@[simp] theorem State.answer_pending (s : State) (c : CoreId) (v : Word) : (s.answer c v).pending = s.pending := rfl
@[simp] theorem State.answer_reply (s : State) (c : CoreId) (v : Word) : (s.answer c v).reply = .value c v := rfl

@[simp] theorem State.complete_cfg (s : State) (c : CoreId) : (s.complete c).cfg = s.cfg := rfl
@[simp] theorem State.complete_uarts (s : State) (c : CoreId) : (s.complete c).uarts = s.uarts := rfl
@[simp] theorem State.complete_gpio (s : State) (c : CoreId) : (s.complete c).gpio = s.gpio := rfl
@[simp] theorem State.complete_timer (s : State) (c : CoreId) : (s.complete c).timer = s.timer := rfl
@[simp] theorem State.complete_clockNow (s : State) (c : CoreId) : (s.complete c).clockNow = s.clockNow := rfl
@[simp] theorem State.complete_sram (s : State) (c : CoreId) : (s.complete c).sram = s.sram := rfl
@[simp] theorem State.complete_diag (s : State) (c : CoreId) : (s.complete c).diag = s.diag := rfl
@[simp] theorem State.complete_txLog (s : State) (c : CoreId) : (s.complete c).txLog = s.txLog := rfl
@[simp] theorem State.complete_draws (s : State) (c : CoreId) : (s.complete c).draws = s.draws := rfl
@[simp] theorem State.complete_pending (s : State) (c : CoreId) : (s.complete c).pending = s.pending := rfl
@[simp] theorem State.complete_reply (s : State) (c : CoreId) : (s.complete c).reply = .written c := rfl

@[simp] theorem State.setReply_cfg (s : State) (x : Reply) : (s.setReply x).cfg = s.cfg := rfl
@[simp] theorem State.setReply_uarts (s : State) (x : Reply) : (s.setReply x).uarts = s.uarts := rfl
@[simp] theorem State.setReply_gpio (s : State) (x : Reply) : (s.setReply x).gpio = s.gpio := rfl
@[simp] theorem State.setReply_timer (s : State) (x : Reply) : (s.setReply x).timer = s.timer := rfl
@[simp] theorem State.setReply_clockNow (s : State) (x : Reply) : (s.setReply x).clockNow = s.clockNow := rfl
@[simp] theorem State.setReply_sram (s : State) (x : Reply) : (s.setReply x).sram = s.sram := rfl
@[simp] theorem State.setReply_diag (s : State) (x : Reply) : (s.setReply x).diag = s.diag := rfl
@[simp] theorem State.setReply_txLog (s : State) (x : Reply) : (s.setReply x).txLog = s.txLog := rfl
@[simp] theorem State.setReply_draws (s : State) (x : Reply) : (s.setReply x).draws = s.draws := rfl
@[simp] theorem State.setReply_pending (s : State) (x : Reply) : (s.setReply x).pending = s.pending := rfl
@[simp] theorem State.setReply_reply (s : State) (x : Reply) : (s.setReply x).reply = x := rfl

@[simp] theorem State.setUart_cfg (s : State) (u : Nat) (U : Uart) : (s.setUart u U).cfg = s.cfg := rfl
@[simp] theorem State.setUart_uarts (s : State) (u : Nat) (U : Uart) : (s.setUart u U).uarts = s.uarts.set u U := rfl
@[simp] theorem State.setUart_gpio (s : State) (u : Nat) (U : Uart) : (s.setUart u U).gpio = s.gpio := rfl
@[simp] theorem State.setUart_timer (s : State) (u : Nat) (U : Uart) : (s.setUart u U).timer = s.timer := rfl
@[simp] theorem State.setUart_clockNow (s : State) (u : Nat) (U : Uart) : (s.setUart u U).clockNow = s.clockNow := rfl
@[simp] theorem State.setUart_sram (s : State) (u : Nat) (U : Uart) : (s.setUart u U).sram = s.sram := rfl
@[simp] theorem State.setUart_diag (s : State) (u : Nat) (U : Uart) : (s.setUart u U).diag = s.diag := rfl
@[simp] theorem State.setUart_txLog (s : State) (u : Nat) (U : Uart) : (s.setUart u U).txLog = s.txLog := rfl
@[simp] theorem State.setUart_draws (s : State) (u : Nat) (U : Uart) : (s.setUart u U).draws = s.draws := rfl
@[simp] theorem State.setUart_pending (s : State) (u : Nat) (U : Uart) : (s.setUart u U).pending = s.pending := rfl
@[simp] theorem State.setUart_reply (s : State) (u : Nat) (U : Uart) : (s.setUart u U).reply = s.reply := rfl

@[simp] theorem State.setGpio_cfg (s : State) (g : Gpio) : (s.setGpio g).cfg = s.cfg := rfl
@[simp] theorem State.setGpio_uarts (s : State) (g : Gpio) : (s.setGpio g).uarts = s.uarts := rfl
@[simp] theorem State.setGpio_gpio (s : State) (g : Gpio) : (s.setGpio g).gpio = g := rfl
@[simp] theorem State.setGpio_timer (s : State) (g : Gpio) : (s.setGpio g).timer = s.timer := rfl
@[simp] theorem State.setGpio_clockNow (s : State) (g : Gpio) : (s.setGpio g).clockNow = s.clockNow := rfl
@[simp] theorem State.setGpio_sram (s : State) (g : Gpio) : (s.setGpio g).sram = s.sram := rfl
@[simp] theorem State.setGpio_diag (s : State) (g : Gpio) : (s.setGpio g).diag = s.diag := rfl
@[simp] theorem State.setGpio_txLog (s : State) (g : Gpio) : (s.setGpio g).txLog = s.txLog := rfl
@[simp] theorem State.setGpio_draws (s : State) (g : Gpio) : (s.setGpio g).draws = s.draws := rfl
@[simp] theorem State.setGpio_pending (s : State) (g : Gpio) : (s.setGpio g).pending = s.pending := rfl
@[simp] theorem State.setGpio_reply (s : State) (g : Gpio) : (s.setGpio g).reply = s.reply := rfl

@[simp] theorem State.setTimer_cfg (s : State) (t : Timer) : (s.setTimer t).cfg = s.cfg := rfl
@[simp] theorem State.setTimer_uarts (s : State) (t : Timer) : (s.setTimer t).uarts = s.uarts := rfl
@[simp] theorem State.setTimer_gpio (s : State) (t : Timer) : (s.setTimer t).gpio = s.gpio := rfl
@[simp] theorem State.setTimer_timer (s : State) (t : Timer) : (s.setTimer t).timer = t := rfl
@[simp] theorem State.setTimer_clockNow (s : State) (t : Timer) : (s.setTimer t).clockNow = s.clockNow := rfl
@[simp] theorem State.setTimer_sram (s : State) (t : Timer) : (s.setTimer t).sram = s.sram := rfl
@[simp] theorem State.setTimer_diag (s : State) (t : Timer) : (s.setTimer t).diag = s.diag := rfl
@[simp] theorem State.setTimer_txLog (s : State) (t : Timer) : (s.setTimer t).txLog = s.txLog := rfl
@[simp] theorem State.setTimer_draws (s : State) (t : Timer) : (s.setTimer t).draws = s.draws := rfl
@[simp] theorem State.setTimer_pending (s : State) (t : Timer) : (s.setTimer t).pending = s.pending := rfl
@[simp] theorem State.setTimer_reply (s : State) (t : Timer) : (s.setTimer t).reply = s.reply := rfl

@[simp] theorem State.setClock_cfg (s : State) (t : Time) : (s.setClock t).cfg = s.cfg := rfl
@[simp] theorem State.setClock_uarts (s : State) (t : Time) : (s.setClock t).uarts = s.uarts := rfl
@[simp] theorem State.setClock_gpio (s : State) (t : Time) : (s.setClock t).gpio = s.gpio := rfl
@[simp] theorem State.setClock_timer (s : State) (t : Time) : (s.setClock t).timer = s.timer := rfl
@[simp] theorem State.setClock_clockNow (s : State) (t : Time) : (s.setClock t).clockNow = t := rfl
@[simp] theorem State.setClock_sram (s : State) (t : Time) : (s.setClock t).sram = s.sram := rfl
@[simp] theorem State.setClock_diag (s : State) (t : Time) : (s.setClock t).diag = s.diag := rfl
@[simp] theorem State.setClock_txLog (s : State) (t : Time) : (s.setClock t).txLog = s.txLog := rfl
@[simp] theorem State.setClock_draws (s : State) (t : Time) : (s.setClock t).draws = s.draws := rfl
@[simp] theorem State.setClock_pending (s : State) (t : Time) : (s.setClock t).pending = s.pending := rfl
@[simp] theorem State.setClock_reply (s : State) (t : Time) : (s.setClock t).reply = s.reply := rfl

@[simp] theorem State.setSram_cfg (s : State) (m : Memory) : (s.setSram m).cfg = s.cfg := rfl
@[simp] theorem State.setSram_uarts (s : State) (m : Memory) : (s.setSram m).uarts = s.uarts := rfl
@[simp] theorem State.setSram_gpio (s : State) (m : Memory) : (s.setSram m).gpio = s.gpio := rfl
@[simp] theorem State.setSram_timer (s : State) (m : Memory) : (s.setSram m).timer = s.timer := rfl
@[simp] theorem State.setSram_clockNow (s : State) (m : Memory) : (s.setSram m).clockNow = s.clockNow := rfl
@[simp] theorem State.setSram_sram (s : State) (m : Memory) : (s.setSram m).sram = m := rfl
@[simp] theorem State.setSram_diag (s : State) (m : Memory) : (s.setSram m).diag = s.diag := rfl
@[simp] theorem State.setSram_txLog (s : State) (m : Memory) : (s.setSram m).txLog = s.txLog := rfl
@[simp] theorem State.setSram_draws (s : State) (m : Memory) : (s.setSram m).draws = s.draws := rfl
@[simp] theorem State.setSram_pending (s : State) (m : Memory) : (s.setSram m).pending = s.pending := rfl
@[simp] theorem State.setSram_reply (s : State) (m : Memory) : (s.setSram m).reply = s.reply := rfl

@[simp] theorem State.logDiag_cfg (s : State) (d : DiagRecord) : (s.logDiag d).cfg = s.cfg := rfl
@[simp] theorem State.logDiag_uarts (s : State) (d : DiagRecord) : (s.logDiag d).uarts = s.uarts := rfl
@[simp] theorem State.logDiag_gpio (s : State) (d : DiagRecord) : (s.logDiag d).gpio = s.gpio := rfl
@[simp] theorem State.logDiag_timer (s : State) (d : DiagRecord) : (s.logDiag d).timer = s.timer := rfl
@[simp] theorem State.logDiag_clockNow (s : State) (d : DiagRecord) : (s.logDiag d).clockNow = s.clockNow := rfl
@[simp] theorem State.logDiag_sram (s : State) (d : DiagRecord) : (s.logDiag d).sram = s.sram := rfl
@[simp] theorem State.logDiag_diag (s : State) (d : DiagRecord) : (s.logDiag d).diag = s.diag ++ [d] := rfl
@[simp] theorem State.logDiag_txLog (s : State) (d : DiagRecord) : (s.logDiag d).txLog = s.txLog := rfl
@[simp] theorem State.logDiag_draws (s : State) (d : DiagRecord) : (s.logDiag d).draws = s.draws := rfl
@[simp] theorem State.logDiag_pending (s : State) (d : DiagRecord) : (s.logDiag d).pending = s.pending := rfl
@[simp] theorem State.logDiag_reply (s : State) (d : DiagRecord) : (s.logDiag d).reply = s.reply := rfl

@[simp] theorem State.setPending_cfg (s : State) (ops : List RawOp) : (s.setPending ops).cfg = s.cfg := rfl
@[simp] theorem State.setPending_uarts (s : State) (ops : List RawOp) : (s.setPending ops).uarts = s.uarts := rfl
@[simp] theorem State.setPending_gpio (s : State) (ops : List RawOp) : (s.setPending ops).gpio = s.gpio := rfl
@[simp] theorem State.setPending_timer (s : State) (ops : List RawOp) : (s.setPending ops).timer = s.timer := rfl
@[simp] theorem State.setPending_clockNow (s : State) (ops : List RawOp) : (s.setPending ops).clockNow = s.clockNow := rfl
@[simp] theorem State.setPending_sram (s : State) (ops : List RawOp) : (s.setPending ops).sram = s.sram := rfl
@[simp] theorem State.setPending_diag (s : State) (ops : List RawOp) : (s.setPending ops).diag = s.diag := rfl
@[simp] theorem State.setPending_txLog (s : State) (ops : List RawOp) : (s.setPending ops).txLog = s.txLog := rfl
@[simp] theorem State.setPending_draws (s : State) (ops : List RawOp) : (s.setPending ops).draws = s.draws := rfl
@[simp] theorem State.setPending_pending (s : State) (ops : List RawOp) : (s.setPending ops).pending = ops := rfl
@[simp] theorem State.setPending_reply (s : State) (ops : List RawOp) : (s.setPending ops).reply = s.reply := rfl

@[simp] theorem State.send_cfg (s : State) (u : Nat) (b : Byte) : (s.send u b).cfg = s.cfg := rfl
@[simp] theorem State.send_uarts (s : State) (u : Nat) (b : Byte) : (s.send u b).uarts = s.uarts := rfl
@[simp] theorem State.send_gpio (s : State) (u : Nat) (b : Byte) : (s.send u b).gpio = s.gpio := rfl
@[simp] theorem State.send_timer (s : State) (u : Nat) (b : Byte) : (s.send u b).timer = s.timer := rfl
@[simp] theorem State.send_clockNow (s : State) (u : Nat) (b : Byte) : (s.send u b).clockNow = s.clockNow := rfl
@[simp] theorem State.send_sram (s : State) (u : Nat) (b : Byte) : (s.send u b).sram = s.sram := rfl
@[simp] theorem State.send_diag (s : State) (u : Nat) (b : Byte) : (s.send u b).diag = s.diag := rfl
@[simp] theorem State.send_txLog (s : State) (u : Nat) (b : Byte) : (s.send u b).txLog = s.txLog.set u (s.txLog.getD u [] ++ [b]) := rfl
@[simp] theorem State.send_draws (s : State) (u : Nat) (b : Byte) : (s.send u b).draws = s.draws := rfl
@[simp] theorem State.send_pending (s : State) (u : Nat) (b : Byte) : (s.send u b).pending = s.pending := rfl
@[simp] theorem State.send_reply (s : State) (u : Nat) (b : Byte) : (s.send u b).reply = s.reply := rfl

@[simp] theorem State.answerDraw_cfg (s : State) (c : CoreId) : (s.answerDraw c).cfg = s.cfg := rfl
@[simp] theorem State.answerDraw_uarts (s : State) (c : CoreId) : (s.answerDraw c).uarts = s.uarts := rfl
@[simp] theorem State.answerDraw_gpio (s : State) (c : CoreId) : (s.answerDraw c).gpio = s.gpio := rfl
@[simp] theorem State.answerDraw_timer (s : State) (c : CoreId) : (s.answerDraw c).timer = s.timer := rfl
@[simp] theorem State.answerDraw_clockNow (s : State) (c : CoreId) : (s.answerDraw c).clockNow = s.clockNow := rfl
@[simp] theorem State.answerDraw_sram (s : State) (c : CoreId) : (s.answerDraw c).sram = s.sram := rfl
@[simp] theorem State.answerDraw_diag (s : State) (c : CoreId) : (s.answerDraw c).diag = s.diag := rfl
@[simp] theorem State.answerDraw_txLog (s : State) (c : CoreId) : (s.answerDraw c).txLog = s.txLog := rfl
@[simp] theorem State.answerDraw_draws (s : State) (c : CoreId) : (s.answerDraw c).draws = s.draws + 1 := rfl
@[simp] theorem State.answerDraw_pending (s : State) (c : CoreId) : (s.answerDraw c).pending = s.pending := rfl
@[simp] theorem State.answerDraw_reply (s : State) (c : CoreId) : (s.answerDraw c).reply = .value c (Config.draw s.draws) := rfl

@[simp] theorem State.memWrite_cfg (s : State) (off : Nat) (w : BusWidth) (v : Word) : (s.memWrite off w v).cfg = s.cfg := rfl
@[simp] theorem State.memWrite_uarts (s : State) (off : Nat) (w : BusWidth) (v : Word) : (s.memWrite off w v).uarts = s.uarts := rfl
@[simp] theorem State.memWrite_gpio (s : State) (off : Nat) (w : BusWidth) (v : Word) : (s.memWrite off w v).gpio = s.gpio := rfl
@[simp] theorem State.memWrite_timer (s : State) (off : Nat) (w : BusWidth) (v : Word) : (s.memWrite off w v).timer = s.timer := rfl
@[simp] theorem State.memWrite_clockNow (s : State) (off : Nat) (w : BusWidth) (v : Word) : (s.memWrite off w v).clockNow = s.clockNow := rfl
@[simp] theorem State.memWrite_sram (s : State) (off : Nat) (w : BusWidth) (v : Word) : (s.memWrite off w v).sram = s.sram.writeBytes off (bytesLE (widthBytes w) v) := rfl
@[simp] theorem State.memWrite_diag (s : State) (off : Nat) (w : BusWidth) (v : Word) : (s.memWrite off w v).diag = s.diag := rfl
@[simp] theorem State.memWrite_txLog (s : State) (off : Nat) (w : BusWidth) (v : Word) : (s.memWrite off w v).txLog = s.txLog := rfl
@[simp] theorem State.memWrite_draws (s : State) (off : Nat) (w : BusWidth) (v : Word) : (s.memWrite off w v).draws = s.draws := rfl
@[simp] theorem State.memWrite_pending (s : State) (off : Nat) (w : BusWidth) (v : Word) : (s.memWrite off w v).pending = s.pending := rfl
@[simp] theorem State.memWrite_reply (s : State) (off : Nat) (w : BusWidth) (v : Word) : (s.memWrite off w v).reply = s.reply := rfl

@[simp] theorem State.resetDevices_cfg (s : State) : (s.resetDevices).cfg = s.cfg := rfl
@[simp] theorem State.resetDevices_uarts (s : State) : (s.resetDevices).uarts = List.replicate s.cfg.uartCount Uart.reset := rfl
@[simp] theorem State.resetDevices_gpio (s : State) : (s.resetDevices).gpio = Gpio.reset := rfl
@[simp] theorem State.resetDevices_timer (s : State) : (s.resetDevices).timer = Timer.reset s.clockNow := rfl
@[simp] theorem State.resetDevices_clockNow (s : State) : (s.resetDevices).clockNow = s.clockNow := rfl
@[simp] theorem State.resetDevices_sram (s : State) : (s.resetDevices).sram = s.sram := rfl
@[simp] theorem State.resetDevices_diag (s : State) : (s.resetDevices).diag = s.diag := rfl
@[simp] theorem State.resetDevices_txLog (s : State) : (s.resetDevices).txLog = s.txLog := rfl
@[simp] theorem State.resetDevices_draws (s : State) : (s.resetDevices).draws = s.draws := rfl
@[simp] theorem State.resetDevices_pending (s : State) : (s.resetDevices).pending = s.pending := rfl
@[simp] theorem State.resetDevices_reply (s : State) : (s.resetDevices).reply = s.reply := rfl

@[simp] theorem State.restoreDevices_cfg (s : State) (snap : Snapshot) : (s.restoreDevices snap).cfg = s.cfg := rfl
@[simp] theorem State.restoreDevices_uarts (s : State) (snap : Snapshot) : (s.restoreDevices snap).uarts = snap.uarts.map Uart.restored := rfl
@[simp] theorem State.restoreDevices_gpio (s : State) (snap : Snapshot) : (s.restoreDevices snap).gpio = snap.gpio := rfl
@[simp] theorem State.restoreDevices_timer (s : State) (snap : Snapshot) : (s.restoreDevices snap).timer = (s.timer.restore s.clockNow snap).evalAlarms s.clockNow := rfl
@[simp] theorem State.restoreDevices_clockNow (s : State) (snap : Snapshot) : (s.restoreDevices snap).clockNow = s.clockNow := rfl
@[simp] theorem State.restoreDevices_sram (s : State) (snap : Snapshot) : (s.restoreDevices snap).sram = s.sram := rfl
@[simp] theorem State.restoreDevices_diag (s : State) (snap : Snapshot) : (s.restoreDevices snap).diag = s.diag := rfl
@[simp] theorem State.restoreDevices_txLog (s : State) (snap : Snapshot) : (s.restoreDevices snap).txLog = s.txLog := rfl
@[simp] theorem State.restoreDevices_draws (s : State) (snap : Snapshot) : (s.restoreDevices snap).draws = s.draws := rfl
@[simp] theorem State.restoreDevices_pending (s : State) (snap : Snapshot) : (s.restoreDevices snap).pending = s.pending := rfl
@[simp] theorem State.restoreDevices_reply (s : State) (snap : Snapshot) : (s.restoreDevices snap).reply = s.reply := rfl

@[simp] theorem State.endIgnored_cfg (s : State) (c : CoreId) (dir : Dir) : (s.endIgnored c dir).cfg = s.cfg := by
  cases dir <;> rfl
@[simp] theorem State.endIgnored_uarts (s : State) (c : CoreId) (dir : Dir) : (s.endIgnored c dir).uarts = s.uarts := by
  cases dir <;> rfl
@[simp] theorem State.endIgnored_gpio (s : State) (c : CoreId) (dir : Dir) : (s.endIgnored c dir).gpio = s.gpio := by
  cases dir <;> rfl
@[simp] theorem State.endIgnored_timer (s : State) (c : CoreId) (dir : Dir) : (s.endIgnored c dir).timer = s.timer := by
  cases dir <;> rfl
@[simp] theorem State.endIgnored_clockNow (s : State) (c : CoreId) (dir : Dir) : (s.endIgnored c dir).clockNow = s.clockNow := by
  cases dir <;> rfl
@[simp] theorem State.endIgnored_sram (s : State) (c : CoreId) (dir : Dir) : (s.endIgnored c dir).sram = s.sram := by
  cases dir <;> rfl
@[simp] theorem State.endIgnored_diag (s : State) (c : CoreId) (dir : Dir) : (s.endIgnored c dir).diag = s.diag := by
  cases dir <;> rfl
@[simp] theorem State.endIgnored_txLog (s : State) (c : CoreId) (dir : Dir) : (s.endIgnored c dir).txLog = s.txLog := by
  cases dir <;> rfl
@[simp] theorem State.endIgnored_draws (s : State) (c : CoreId) (dir : Dir) : (s.endIgnored c dir).draws = s.draws := by
  cases dir <;> rfl
@[simp] theorem State.endIgnored_pending (s : State) (c : CoreId) (dir : Dir) : (s.endIgnored c dir).pending = s.pending := by
  cases dir <;> rfl
@[simp] theorem State.endIgnored_reply (s : State) (c : CoreId) (dir : Dir) :
    (s.endIgnored c dir).reply = match dir with | .read => .value c 0 | .write => .written c := by cases dir <;> rfl

@[simp] theorem State.guestError_cfg (s : State) (k : GuestErrorKind) (c : CoreId) (dir : Dir) (a : Word) (w : BusWidth) (v : Word) :
    (s.guestError k c dir a w v).cfg = s.cfg := by
  cases dir <;> rfl
@[simp] theorem State.guestError_uarts (s : State) (k : GuestErrorKind) (c : CoreId) (dir : Dir) (a : Word) (w : BusWidth) (v : Word) :
    (s.guestError k c dir a w v).uarts = s.uarts := by
  cases dir <;> rfl
@[simp] theorem State.guestError_gpio (s : State) (k : GuestErrorKind) (c : CoreId) (dir : Dir) (a : Word) (w : BusWidth) (v : Word) :
    (s.guestError k c dir a w v).gpio = s.gpio := by
  cases dir <;> rfl
@[simp] theorem State.guestError_timer (s : State) (k : GuestErrorKind) (c : CoreId) (dir : Dir) (a : Word) (w : BusWidth) (v : Word) :
    (s.guestError k c dir a w v).timer = s.timer := by
  cases dir <;> rfl
@[simp] theorem State.guestError_clockNow (s : State) (k : GuestErrorKind) (c : CoreId) (dir : Dir) (a : Word) (w : BusWidth) (v : Word) :
    (s.guestError k c dir a w v).clockNow = s.clockNow := by
  cases dir <;> rfl
@[simp] theorem State.guestError_sram (s : State) (k : GuestErrorKind) (c : CoreId) (dir : Dir) (a : Word) (w : BusWidth) (v : Word) :
    (s.guestError k c dir a w v).sram = s.sram := by
  cases dir <;> rfl
@[simp] theorem State.guestError_diag (s : State) (k : GuestErrorKind) (c : CoreId) (dir : Dir) (a : Word) (w : BusWidth) (v : Word) :
    (s.guestError k c dir a w v).diag = s.diag ++ [⟨k, c, dir, a, w, v⟩] := by
  cases dir <;> rfl
@[simp] theorem State.guestError_txLog (s : State) (k : GuestErrorKind) (c : CoreId) (dir : Dir) (a : Word) (w : BusWidth) (v : Word) :
    (s.guestError k c dir a w v).txLog = s.txLog := by
  cases dir <;> rfl
@[simp] theorem State.guestError_draws (s : State) (k : GuestErrorKind) (c : CoreId) (dir : Dir) (a : Word) (w : BusWidth) (v : Word) :
    (s.guestError k c dir a w v).draws = s.draws := by
  cases dir <;> rfl
@[simp] theorem State.guestError_pending (s : State) (k : GuestErrorKind) (c : CoreId) (dir : Dir) (a : Word) (w : BusWidth) (v : Word) :
    (s.guestError k c dir a w v).pending = s.pending := by
  cases dir <;> rfl
@[simp] theorem State.guestError_reply (s : State) (k : GuestErrorKind) (c : CoreId) (dir : Dir) (a : Word) (w : BusWidth) (v : Word) :
    (s.guestError k c dir a w v).reply = match dir with | .read => .value c 0 | .write => .written c := by
  cases dir <;> rfl

end Sys2Proof.Machine
end

