-- ==== Sys2Proof/Laws/Memory.lean ====
section
/-! SUPPORT. Memory: a read after a write, the canonical form every write keeps, and the bytes a write of a width stores. -/

namespace Sys2Proof.Machine

@[simp] theorem Memory.lookup_write_self (m : Memory) (a : Nat) (b : Byte) : (Memory.write m a b).lookup a = some b := by
  induction m with
  | nil => simp [Memory.write, Memory.lookup]
  | cons cell rest ih =>
    obtain ⟨k, x⟩ := cell
    simp only [Memory.write]
    split
    · simp [Memory.lookup]
    split
    · simp [Memory.lookup]
    · next h => simp [Memory.lookup, ih, Ne.symm h]

theorem Memory.lookup_write_other (m : Memory) {a x : Nat} (b : Byte) (h : x ≠ a) : (Memory.write m a b).lookup x = m.lookup x := by
  induction m with
  | nil => simp [Memory.write, Memory.lookup, Ne.symm h]
  | cons cell rest ih =>
    obtain ⟨k, y⟩ := cell
    simp only [Memory.write]
    split
    · simp [Memory.lookup, Ne.symm h]
    split
    · next hk => simp [Memory.lookup, Ne.symm h, ← hk]
    · simp [Memory.lookup, ih]

/-- A write adds no offset but its own. -/
theorem Memory.mem_write {m : Memory} {a : Nat} {b : Byte} {cell : Host.Cell} (h : cell ∈ Memory.write m a b) :
    cell ∈ m ∨ cell.1 = a := by
  induction m with
  | nil => simp [Memory.write] at h; simp [h]
  | cons head rest ih =>
    obtain ⟨k, y⟩ := head
    simp only [Memory.write] at h
    split at h
    · rcases List.mem_cons.1 h with rfl | h
      · exact .inr rfl
      · exact .inl h
    split at h
    · rcases List.mem_cons.1 h with rfl | h
      · exact .inr rfl
      · exact .inl (List.mem_cons_of_mem _ h)
    · rcases List.mem_cons.1 h with rfl | h
      · exact .inl (List.mem_cons_self ..)
      · exact (ih h).imp_left (List.mem_cons_of_mem _)

theorem Memory.wf_nil : Memory.wf [] := List.Pairwise.nil

/-- A write keeps the canonical form. -/
theorem Memory.wf_write {m : Memory} (h : m.wf) (a : Nat) (b : Byte) : (Memory.write m a b).wf := by
  induction m with
  | nil => simp [Memory.write]
  | cons head rest ih =>
    obtain ⟨k, y⟩ := head
    have hp := List.pairwise_cons.1 h
    simp only [Memory.write]
    split
    · next hlt =>
      refine List.pairwise_cons.2 ⟨fun x hx => ?_, h⟩
      rcases List.mem_cons.1 hx with rfl | hx
      · exact hlt
      · exact Nat.lt_trans hlt (hp.1 x hx)
    split
    · next heq => subst heq; exact List.pairwise_cons.2 hp
    · next h1 h2 =>
      refine List.pairwise_cons.2 ⟨fun x hx => ?_, ih hp.2⟩
      rcases Memory.mem_write hx with hx | hx
      · exact hp.1 x hx
      · simp only [hx]; omega

theorem Memory.wf_writeBytes {m : Memory} (h : m.wf) (a : Nat) (bs : List Byte) : (m.writeBytes a bs).wf := by
  induction bs generalizing m a with
  | nil => exact h
  | cons b bs ih => exact ih (Memory.wf_write h a b) (a + 1)

/-- A write of bytes adds no offset but its own. -/
theorem Memory.mem_writeBytes {m : Memory} {a : Nat} {bs : List Byte} {cell : Host.Cell} (h : cell ∈ m.writeBytes a bs) :
    cell ∈ m ∨ (a ≤ cell.1 ∧ cell.1 < a + bs.length) := by
  induction bs generalizing m a with
  | nil => exact .inl h
  | cons b bs ih =>
    rcases ih h with h | ⟨h1, h2⟩
    · refine (Memory.mem_write h).imp_right fun h => ?_
      simp [h]
    · right; simp only [List.length_cons]; omega

theorem Memory.lookup_writeBytes_outside (m : Memory) (a : Nat) (bs : List Byte) {x : Nat} (h : x < a ∨ a + bs.length ≤ x) :
    (m.writeBytes a bs).lookup x = m.lookup x := by
  induction bs generalizing m a with
  | nil => rfl
  | cons b bs ih =>
    simp only [List.length_cons] at h
    simp only [Memory.writeBytes]
    rw [ih _ _ (by omega), Memory.lookup_write_other m b (by omega)]

theorem Memory.lookup_writeBytes_inside (m : Memory) (a : Nat) (bs : List Byte) {j : Nat} (h : j < bs.length) :
    (m.writeBytes a bs).lookup (a + j) = some bs[j] := by
  induction bs generalizing m a j with
  | nil => simp at h
  | cons b bs ih =>
    simp only [Memory.writeBytes]
    cases j with
    | zero => simp [Memory.lookup_writeBytes_outside]
    | succ j =>
      rw [show a + (j + 1) = a + 1 + j by omega, ih _ _ (by simpa using h)]
      simp

@[simp] theorem bytesLE_length (n : Nat) (v : Word) : (bytesLE n v).length = n := by
  induction n generalizing v with
  | zero => rfl
  | succ n ih => simp [bytesLE, ih]

/-- Byte `j` of the data is its bits `8j+7:8j` (20_memory.md R92). -/
theorem bytesLE_getElem (n : Nat) (v : Word) (j : Nat) (h : j < (bytesLE n v).length) : (bytesLE n v)[j] = v.extractLsb' (8 * j) 8 := by
  induction n generalizing v j with
  | zero => simp [bytesLE] at h
  | succ n ih =>
    cases j with
    | zero => simp [bytesLE]
    | succ j =>
      simp only [bytesLE, List.getElem_cons_succ]
      rw [ih]
      apply BitVec.eq_of_getLsbD_eq
      intro i hi
      simp only [BitVec.getLsbD_extractLsb', BitVec.getLsbD_ushiftRight]
      congr 2
      omega

theorem State.memByte_memWrite_sram_outside (s : State) (off : Nat) (w : BusWidth) (v : Word) {x : Nat}
    (h : x < off ∨ off + widthBytes w ≤ x) : (s.memWrite off w v).memByte .sram x = s.memByte .sram x := by
  simp only [State.memByte, State.memWrite_sram]
  rw [Memory.lookup_writeBytes_outside _ _ _ (by simpa using h)]

theorem State.memByte_memWrite_sram_inside (s : State) (off : Nat) (w : BusWidth) (v : Word) {j : Nat} (h : j < widthBytes w) :
    (s.memWrite off w v).memByte .sram (off + j) = v.extractLsb' (8 * j) 8 := by
  simp only [State.memByte, State.memWrite_sram]
  rw [Memory.lookup_writeBytes_inside _ _ _ (by simpa using h), Option.getD_some, bytesLE_getElem]

theorem State.memByte_memWrite_other (s : State) (off : Nat) (w : BusWidth) (v : Word) {m : MemKind} (h : m ≠ .sram) (x : Nat) :
    (s.memWrite off w v).memByte m x = s.memByte m x := by
  cases m <;> first | rfl | exact absurd rfl h

/-- A memory byte depends on the images and on RAM only. -/
theorem State.memByte_congr {s t : State} (hc : s.cfg = t.cfg) (h : s.sram = t.sram) (m : MemKind) (x : Nat) :
    s.memByte m x = t.memByte m x := by
  cases m <;> simp [State.memByte, hc, h]

/-- In canonical form, the byte listed at an offset is the one found there. -/
theorem Memory.lookup_of_mem {m : Memory} (h : m.wf) {a : Nat} {b : Byte} (hm : (a, b) ∈ m) : m.lookup a = some b := by
  induction m with
  | nil => cases hm
  | cons cell rest ih =>
    obtain ⟨k, x⟩ := cell
    have hp := List.pairwise_cons.1 h
    rcases List.mem_cons.1 hm with heq | hm
    · cases heq; simp [Memory.lookup]
    · have hlt := hp.1 _ hm
      simp only [Memory.lookup, ih hp.2 hm]
      rw [if_neg (by simp only at hlt; omega)]

/-- At an offset that is not listed nothing is found. -/
theorem Memory.lookup_of_not_mem {m : Memory} {a : Nat} (h : ∀ b, (a, b) ∉ m) : m.lookup a = none := by
  induction m with
  | nil => rfl
  | cons cell rest ih =>
    obtain ⟨k, x⟩ := cell
    simp only [List.mem_cons, not_or] at h
    simp only [Memory.lookup]
    rw [if_neg fun hk => (h x).1 (by rw [hk]), ih fun b => (h b).2]

/-- The bytes of an image given byte by byte. -/
theorem Image.byte_given (bytes : List Byte) (off : Nat) (h : off < bytes.length) : (Image.given bytes).byte off = bytes[off] := by
  simp [Image.byte, h]

/-- Two bytes as a value, the first least significant (20_memory.md R91). -/
theorem wordOfBytesLE_two (a b : Byte) : wordOfBytesLE [a, b] = (b ++ a).setWidth 32 := by
  apply BitVec.eq_of_getLsbD_eq
  intro i hi
  have h1 : i - 8 < 32 := by omega
  simp only [wordOfBytesLE, BitVec.getLsbD_or, BitVec.getLsbD_shiftLeft, BitVec.getLsbD_setWidth, BitVec.getLsbD_append]
  by_cases h8 : i < 8
  · simp [h8, hi]
  · simp [h8, hi, h1, BitVec.getLsbD_of_ge a i (by omega)]

/-- Four bytes as a value, the first least significant (20_memory.md R91). -/
theorem wordOfBytesLE_four (a b c d : Byte) : wordOfBytesLE [a, b, c, d] = d ++ c ++ b ++ a := by
  apply BitVec.eq_of_getLsbD_eq
  intro i hi
  have h1 : i - 8 < 32 := by omega
  have h2 : i - 8 - 8 < 32 := by omega
  have h3 : i - 8 - 8 - 8 < 32 := by omega
  simp only [wordOfBytesLE, BitVec.getLsbD_or, BitVec.getLsbD_shiftLeft, BitVec.getLsbD_setWidth, BitVec.getLsbD_append]
  by_cases h8 : i < 8
  · simp [h8, hi]
  have ha := BitVec.getLsbD_of_ge a i (by omega)
  by_cases h16 : i - 8 < 8
  · simp [h8, hi, h1, h16, ha]
  have hb := BitVec.getLsbD_of_ge b (i - 8) (by omega)
  by_cases h24 : i - 8 - 8 < 8
  · simp [h8, hi, h1, h16, h2, h24, ha, hb]
  · simp [h8, hi, h1, h16, h2, h24, h3, ha, hb, BitVec.getLsbD_of_ge c (i - 8 - 8) (by omega)]

end Sys2Proof.Machine
end

