-- ==== Sys2Proof/Laws/Ops.lean ====
section
/-! SUPPORT. One lemma for each shared operation: all it can do when it answers a next state. -/

namespace Sys2Proof.Machine

variable {s t : State} {c : CoreId} {u : Nat}

@[simp] theorem next_inj {x y : State} : (Host.Outcome.next x : Result) = .next y ↔ x = y := by
  constructor
  · intro h; cases h; rfl
  · rintro rfl; rfl

@[simp] theorem refused_ne_next {r : Refusal} {y : State} : (Host.Outcome.refused r : Result) = .next y ↔ False := by
  constructor
  · intro h; cases h
  · exact False.elim

theorem withUart_next {k : Uart → Result} : withUart s u k = .next t ↔ ∃ U, s.uarts[u]? = some U ∧ k U = .next t := by
  unfold withUart
  cases s.uarts[u]? <;> simp

theorem readUart_next {f : Uart → Word} : readUart c u s f = .next t ↔ ∃ U, s.uarts[u]? = some U ∧ t = s.answer c (f U) := by
  simp only [readUart, withUart_next, next_inj, @eq_comm State _ t]

theorem writeUart_next {f : Uart → Uart} :
    writeUart c u s f = .next t ↔ ∃ U, s.uarts[u]? = some U ∧ t = (s.setUart u (f U)).complete c := by
  simp only [writeUart, withUart_next, next_inj, @eq_comm State _ t]

theorem ignoreUart_next : ignoreUart c u s = .next t ↔ (∃ U, s.uarts[u]? = some U) ∧ t = s.complete c := by
  simp only [ignoreUart, withUart_next, next_inj, @eq_comm State _ t, exists_and_right]

theorem readReg_next {v : Word} : readReg c s v = .next t ↔ t = s.answer c v := by simp [readReg, eq_comm]

theorem writeGpio_next {g : Gpio} : writeGpio c s g = .next t ↔ t = (s.setGpio g).complete c := by simp [writeGpio, eq_comm]

theorem writeTimer_next {T : Timer} : writeTimer c s T = .next t ↔ t = (s.setTimer T).complete c := by simp [writeTimer, eq_comm]

theorem ignoreReg_next : ignoreReg c s = .next t ↔ t = s.complete c := by simp [ignoreReg, eq_comm]

theorem reservedAccess_next {port : DevPort} {dir : Dir} {off : BitVec 12} {v : Word} :
    reservedAccess port c dir off v s = .next t ↔ t = s.guestError .reserved c dir (portAddr s.cfg port off) .word v := by
  simp [reservedAccess, eq_comm]

/-- All a read transaction can do: answer a value, log one guest error, or run the register operation its selector names. -/
theorem busRead_next {a : Word} {w : BusWidth} (h : busRead c a w s = .next t) :
    (∃ v, t = s.answer c v) ∨ (∃ kind, t = s.guestError kind c .read a w 0) ∨
    (∃ port off, decodeAddr s.cfg a w = .dev port off ∧ devRead port c off s = .next t) := by
  unfold busRead at h
  split at h
  · exact .inr (.inl ⟨_, (next_inj.1 h).symm⟩)
  · exact .inr (.inl ⟨_, (next_inj.1 h).symm⟩)
  · exact .inl ⟨_, (next_inj.1 h).symm⟩
  · next port off hd => exact .inr (.inr ⟨port, off, hd, h⟩)

/-- All a write transaction can do: store to RAM, log one guest error, or run the register operation its selector names. -/
theorem busWrite_next {a : Word} {w : BusWidth} {v : Word} (h : busWrite c a w v s = .next t) :
    (∃ off, decodeAddr s.cfg a w = .mem .sram off ∧ t = (s.memWrite off w v).complete c) ∨
    (∃ kind, t = s.guestError kind c .write a w v) ∨
    (∃ port off, decodeAddr s.cfg a w = .dev port off ∧ devWrite port c off v s = .next t) := by
  unfold busWrite at h
  split at h
  · exact .inr (.inl ⟨_, (next_inj.1 h).symm⟩)
  · exact .inr (.inl ⟨_, (next_inj.1 h).symm⟩)
  · next off hd => exact .inl ⟨off, hd, (next_inj.1 h).symm⟩
  · exact .inr (.inl ⟨_, (next_inj.1 h).symm⟩)
  · next port off hd => exact .inr (.inr ⟨port, off, hd, h⟩)

/-- Only an aligned 32-bit access reaches a device register, at an offset that is a multiple of 4 in its window. -/
theorem decodeAddr_dev {cfg : Config} {a : Word} {w : BusWidth} {port : DevPort} {off : BitVec 12}
    (h : decodeAddr cfg a w = .dev port off) :
    w = .word ∧ a.toNat % 4 = 0 ∧
      ∃ r ∈ cfg.regions, r.kind = .device port ∧ r.base ≤ a.toNat ∧ a.toNat + 3 ≤ r.base + r.size - 1 ∧
        off = BitVec.ofNat 12 (a.toNat - r.base) := by
  unfold decodeAddr at h
  split at h
  · cases h
  next hal =>
  split at h
  next r hr =>
    have hmem := List.mem_of_find?_eq_some hr
    have hholds := List.find?_some hr
    unfold regionTarget at h
    split at h
    · cases h
    · cases h
    next port' hk =>
      split at h
      next hw =>
        cases h
        subst hw
        simp only [regionHolds, Bool.and_eq_true, decide_eq_true_eq] at hholds
        have h2 : a.toNat + 4 - 1 ≤ r.base + r.size - 1 := hholds.2
        exact ⟨rfl, by simpa [widthBytes] using hal, r, hmem, hk, hholds.1, by omega, rfl⟩
      · cases h
  · cases h

/-- An access that reaches memory lies in its region. -/
theorem decodeAddr_mem {cfg : Config} {a : Word} {w : BusWidth} {m : MemKind} {off : Nat} (h : decodeAddr cfg a w = .mem m off) :
    a.toNat % widthBytes w = 0 ∧
      ∃ r ∈ cfg.regions, r.kind = .mem m ∧ r.base ≤ a.toNat ∧ a.toNat + widthBytes w - 1 ≤ r.base + r.size - 1 ∧
        off = a.toNat - r.base := by
  unfold decodeAddr at h
  split at h
  · cases h
  next hal =>
  split at h
  next r hr =>
    have hmem := List.mem_of_find?_eq_some hr
    have hholds := List.find?_some hr
    unfold regionTarget at h
    split at h
    next m' hk =>
      cases h
      simp only [regionHolds, Bool.and_eq_true, decide_eq_true_eq] at hholds
      exact ⟨by simpa using hal, r, hmem, hk, hholds.1, hholds.2, rfl⟩
    · cases h
    · split at h <;> cases h
  · cases h

/-- A guest error changes only the log and the reply. -/
theorem State.guestError_eq (s : State) (kind : GuestErrorKind) (c : CoreId) (dir : Dir) (a : Word) (w : BusWidth) (v : Word) :
    s.guestError kind c dir a w v =
      { s with diag := s.diag ++ [⟨kind, c, dir, a, w, v⟩], reply := (s.guestError kind c dir a w v).reply } := by
  cases dir <;> rfl

/-! The timer. -/

@[simp] theorem Timer.dueMask_getLsbD (t : Timer) (now : Time) (k : Fin 4) : (t.dueMask now).getLsbD k.val = t.due now k := by
  have h : ∀ (b0 b1 b2 b3 : Bool) (j : Fin 4),
      (BitVec.ofBool b3 ++ BitVec.ofBool b2 ++ BitVec.ofBool b1 ++ BitVec.ofBool b0).getLsbD j.val = #v[b0, b1, b2, b3][j] := by
    decide
  unfold Timer.dueMask
  rw [h]
  fin_cases k <;> rfl

/-- Alarm evaluation, alarm by alarm (44_timer.md R310). -/
theorem Timer.fireDue_armed (t : Timer) (now : Time) (k : Fin 4) :
    (t.fireDue now).armed.getLsbD k.val = (t.armed.getLsbD k.val && decide (now < t.target[k])) := by
  have h : decide (now < t.target[k]) = !decide (t.target[k] ≤ now) := by simp [← BitVec.not_le]
  simp only [Timer.fireDue, BitVec.getLsbD_and, BitVec.getLsbD_not, Timer.dueMask_getLsbD, Timer.due, h]
  cases t.armed.getLsbD k.val <;> simp

theorem Timer.fireDue_intr (t : Timer) (now : Time) (k : Fin 4) :
    (t.fireDue now).intr.getLsbD k.val = (t.intr.getLsbD k.val || t.armed.getLsbD k.val && decide (t.target[k] ≤ now)) := by
  simp only [Timer.fireDue, BitVec.getLsbD_or, Timer.dueMask_getLsbD, Timer.due]

@[simp] theorem Timer.fireDue_base (t : Timer) (now : Time) : (t.fireDue now).base = t.base := rfl
@[simp] theorem Timer.fireDue_paused (t : Timer) (now : Time) : (t.fireDue now).paused = t.paused := rfl
@[simp] theorem Timer.fireDue_frozen (t : Timer) (now : Time) : (t.fireDue now).frozen = t.frozen := rfl
@[simp] theorem Timer.fireDue_latch (t : Timer) (now : Time) : (t.fireDue now).latch = t.latch := rfl
@[simp] theorem Timer.fireDue_target (t : Timer) (now : Time) : (t.fireDue now).target = t.target := rfl
@[simp] theorem Timer.fireDue_inte (t : Timer) (now : Time) : (t.fireDue now).inte = t.inte := rfl
@[simp] theorem Timer.fireDue_counter (t : Timer) (now x : Time) : (t.fireDue now).counter x = t.counter x := rfl

@[simp] theorem Timer.evalAlarms_counter (t : Timer) (x y : Time) : (t.evalAlarms x).counter y = t.counter y := rfl

@[simp] theorem Timer.setCounter_counter (t : Timer) (clockNow x : Time) : (t.setCounter clockNow x).counter clockNow = x := by
  unfold Timer.setCounter
  split <;> simp_all [Timer.counter]

@[simp] theorem Timer.setPaused_counter (t : Timer) (clockNow : Time) (p : Bool) :
    (t.setPaused clockNow p).counter clockNow = t.counter clockNow := by
  unfold Timer.setPaused
  split
  · simp [Timer.counter]
  split <;> simp_all [Timer.counter]

@[simp] theorem Timer.setPaused_paused (t : Timer) (clockNow : Time) (p : Bool) : (t.setPaused clockNow p).paused = p := by
  unfold Timer.setPaused
  cases p <;> cases h : t.paused <;> simp [h]

@[simp] theorem Timer.restore_counter (t : Timer) (clockNow : Time) (snap : Snapshot) :
    (t.restore clockNow snap).counter clockNow = snap.counter := by
  by_cases h : snap.paused <;> simp [Timer.counter, Timer.restore, h]

/-- After alarm evaluation no alarm is overdue. -/
theorem Timer.noneOverdue_evalAlarms (t : Timer) (clockNow : Time) :
    ∀ k : Fin 4, (t.evalAlarms clockNow).armed.getLsbD k.val = true →
      (t.evalAlarms clockNow).counter clockNow < (t.evalAlarms clockNow).target[k] := by
  intro k hk
  have := Timer.fireDue_armed t (t.counter clockNow) k
  simp only [Timer.evalAlarms] at hk ⊢
  rw [this, Bool.and_eq_true, decide_eq_true_eq] at hk
  exact hk.2

end Sys2Proof.Machine
end

