-- ==== Sys2Proof/Laws/Access.lean ====
section
/-! SUPPORT. Which register operations a selector can name: always a device access, of the selector's direction, for the issuing core
and the port's instance. -/

namespace Sys2Proof

open Machine

/-- The operation is a device register access (a DEVSEL row). -/
def Instr.isDeviceAccess : Instr → Bool
  | .busR8 .. | .busR16 .. | .busR32 .. | .busW8 .. | .busW16 .. | .busW32 .. => false
  | .uartRx .. | .uartCapacity .. | .gpioReport .. | .clockAdvance .. | .hostReset | .hostSnapshot | .hostRestore .. => false
  | _ => true

/-- The direction of a device access. -/
def Instr.accessDir : Instr → Option Dir
  | .uartReserved _ _ dir _ _ | .gpioReserved _ dir _ _ | .timerReserved _ dir _ _ => some dir
  | .uartDrR .. | .uartRsrR .. | .uartFrR .. | .uartIlprR .. | .uartIbrdR .. | .uartFbrdR .. | .uartLcrhR .. | .uartCrR ..
  | .uartIflsR .. | .uartImscR .. | .uartRisR .. | .uartMisR .. | .uartIcrR .. | .uartDmacrR .. => some .read
  | .gpioStatusR .. | .gpioCtrlR .. | .gpioIntrR .. | .gpioP0inteR .. | .gpioP0intsR .. | .gpioP1inteR .. | .gpioP1intsR .. => some .read
  | .timerTimehwR .. | .timerTimelwR .. | .timerTimehrR .. | .timerTimelrR .. | .timerAlarmR .. | .timerArmedR .. | .timerRawhR ..
  | .timerRawlR .. | .timerPauseR .. | .timerIntrR .. | .timerInteR .. | .timerIntsR .. => some .read
  | .busR8 .. | .busR16 .. | .busR32 .. | .busW8 .. | .busW16 .. | .busW32 .. => none
  | .uartRx .. | .uartCapacity .. | .gpioReport .. | .clockAdvance .. | .hostReset | .hostSnapshot | .hostRestore .. => none
  | _ => some .write

/-- A row of a device table names device accesses only, of the direction its pattern fixes. -/
def SelRow.directed (row : SelRow) : Prop :=
  row.mask.getLsbD 12 = true ∧
    ∀ a, (row.op a).isDeviceAccess = true ∧ (row.op a).accessDir = some (if row.pat.getLsbD 12 then .write else .read)

theorem selRows_directed (port : DevPort) : ∀ row ∈ selRows port, row.directed := by
  cases port <;>
    (repeat' refine List.forall_mem_cons.2 ⟨⟨rfl, fun a => ⟨rfl, rfl⟩⟩, ?_⟩) <;>
    exact fun _ h => absurd h List.not_mem_nil

/-- A selector names a device access of its own direction (30_encoding.md R122). -/
theorem decodeSel_directed (port : DevPort) (sel : BitVec 13) (c : CoreId) (v : Word) :
    (decodeSel port sel c v).isDeviceAccess = true ∧ (decodeSel port sel c v).accessDir = some (selDir sel) := by
  unfold decodeSel
  split
  · next row hrow =>
    obtain ⟨hmask, hop⟩ := selRows_directed port row (List.mem_of_find?_eq_some hrow)
    have happ := List.find?_some hrow
    simp only [SelRow.applies, Bool.and_eq_true, beq_iff_eq] at happ
    have hbit : row.pat.getLsbD 12 = sel.getLsbD 12 := by rw [← happ.1, BitVec.getLsbD_and, hmask, Bool.and_true]
    refine ⟨(hop _).1, ?_⟩
    rw [(hop _).2, hbit, selDir]
  · cases port <;> exact ⟨rfl, rfl⟩

/-- Handing a device access to the device runs it. -/
theorem runDevice_eq_exec {i : Instr} (h : i.isDeviceAccess = true) (s : State) : runDevice i s = exec i s := by
  cases i <;> first | rfl | cases h

theorem devRead_eq (port : DevPort) (c : CoreId) (off : BitVec 12) (s : State) :
    devRead port c off s = exec (decodeSel port (selector .read off) c 0) s :=
  runDevice_eq_exec (decodeSel_directed ..).1 s

theorem devWrite_eq (port : DevPort) (c : CoreId) (off : BitVec 12) (v : Word) (s : State) :
    devWrite port c off v s = exec (decodeSel port (selector .write off) c v) s :=
  runDevice_eq_exec (decodeSel_directed ..).1 s

/-- A row of a device table names a write of TIMELW, a write of an ALARM register or a read of TIMEHR only where 30_encoding.md R132
has it. -/
theorem selRows_timer (port : DevPort) : ∀ row ∈ selRows port, ∀ a c v,
    (row.op a = .timerTimelwW c v → port = .timer ∧ row.pat = 0x1004 ∧ row.mask = 0x1FFF) ∧
    (∀ k, row.op a = .timerAlarmW c k v → port = .timer ∧ row.pat = 0x1010 ∧ row.mask = 0x1FF3 ∧ k = regOf a.off) ∧
    (row.op a = .timerTimehrR c → port = .timer ∧ row.pat = 0x0008 ∧ row.mask = 0x1FFF) := by
  cases port <;>
    (repeat' refine List.forall_mem_cons.2 ⟨fun a c v => ⟨?_, ?_, ?_⟩, ?_⟩) <;>
    first
      | exact fun _ h => absurd h List.not_mem_nil
      | exact fun _ => ⟨rfl, rfl, rfl⟩
      | (rintro k ⟨⟩; exact ⟨rfl, rfl, rfl, rfl⟩)
      | (intro k h; cases h)
      | (intro h; cases h)

/-- The row behind a selector's operation that is no RESERVED row. -/
theorem decodeSel_row {port : DevPort} {sel : BitVec 13} {c : CoreId} {v : Word} {i : Instr} (h : decodeSel port sel c v = i)
    (hi : ∀ dir off w, i ≠ .uartReserved c (portIndex port) dir off w ∧ i ≠ .gpioReserved c dir off w ∧ i ≠ .timerReserved c dir off w) :
    ∃ row ∈ selRows port, row.op ⟨c, portIndex port, selOffset sel, v⟩ = i ∧ sel &&& row.mask = row.pat := by
  unfold decodeSel at h
  split at h
  · next row hrow =>
    have happ := List.find?_some hrow
    simp only [SelRow.applies, Bool.and_eq_true, beq_iff_eq] at happ
    exact ⟨row, List.mem_of_find?_eq_some hrow, h, happ.1⟩
  · subst h
    cases port
    · exact absurd rfl (hi _ _ _).1
    · exact absurd rfl (hi _ _ _).2.1
    · exact absurd rfl (hi _ _ _).2.2

/-- Only offset 0x004 of the timer is a write of TIMELW. -/
theorem decodeSel_timelw {port : DevPort} {off : BitVec 12} {c c' : CoreId} {v v' : Word}
    (h : decodeSel port (selector .write off) c v = .timerTimelwW c' v') : port = .timer ∧ off = 0x004 := by
  obtain ⟨row, hmem, hop, hsel⟩ := decodeSel_row h fun _ _ _ => ⟨nofun, nofun, nofun⟩
  obtain ⟨hp, hpat, hmask⟩ := (selRows_timer port row hmem _ _ _).1 hop
  refine ⟨hp, ?_⟩
  rw [hpat, hmask] at hsel
  rw [← selOffset_selector .write off, sel_of_full hsel]
  rfl

/-- The offset of an ALARM register, from the two bits of its index. -/
theorem alarmOffset_of_index : ∀ x : BitVec 2,
    selOffset ((0x1010 : BitVec 13) ||| x.setWidth 13 <<< 2) =
      BitVec.ofNat 12 (0x010 + 4 * (regOf (selOffset ((0x1010 : BitVec 13) ||| x.setWidth 13 <<< 2))).val) := by decide

/-- Only offset 0x010 + 4k of the timer is a write of ALARMk. -/
theorem decodeSel_alarm {port : DevPort} {off : BitVec 12} {c c' : CoreId} {k : Fin 4} {v v' : Word}
    (h : decodeSel port (selector .write off) c v = .timerAlarmW c' k v') :
    port = .timer ∧ off = BitVec.ofNat 12 (0x010 + 4 * k.val) := by
  obtain ⟨row, hmem, hop, hsel⟩ := decodeSel_row h fun _ _ _ => ⟨nofun, nofun, nofun⟩
  obtain ⟨hp, hpat, hmask, hk⟩ := (selRows_timer port row hmem _ _ _).2.1 k hop
  refine ⟨hp, ?_⟩
  rw [hpat, hmask] at hsel
  have hoff : off = selOffset ((0x1010 : BitVec 13) ||| ((selector .write off).extractLsb' 2 2).setWidth 13 <<< 2) := by
    rw [← sel_of_reg hsel, selOffset_selector]
  rw [hk, selOffset_selector, hoff]
  exact alarmOffset_of_index _

/-- Only offset 0x008 of the timer is a read of TIMEHR. -/
theorem decodeSel_timehr {port : DevPort} {off : BitVec 12} {c c' : CoreId} {v : Word}
    (h : decodeSel port (selector .read off) c v = .timerTimehrR c') : port = .timer ∧ off = 0x008 := by
  obtain ⟨row, hmem, hop, hsel⟩ := decodeSel_row h fun _ _ _ => ⟨nofun, nofun, nofun⟩
  obtain ⟨hp, hpat, hmask⟩ := (selRows_timer port row hmem _ _ 0).2.2 hop
  refine ⟨hp, ?_⟩
  rw [hpat, hmask] at hsel
  rw [← selOffset_selector .read off, sel_of_full hsel]
  rfl

/-- The core a device access answers. -/
def Instr.accessCore : Instr → Option CoreId
  | .uartDrR c _ | .uartRsrR c _ | .uartFrR c _ | .uartIlprR c _ | .uartIbrdR c _ | .uartFbrdR c _ | .uartLcrhR c _ | .uartCrR c _
  | .uartIflsR c _ | .uartImscR c _ | .uartRisR c _ | .uartMisR c _ | .uartIcrR c _ | .uartDmacrR c _ => some c
  | .uartDrW c _ _ | .uartEcrW c _ _ | .uartFrW c _ _ | .uartIlprW c _ _ | .uartIbrdW c _ _ | .uartFbrdW c _ _ | .uartLcrhW c _ _
  | .uartCrW c _ _ | .uartIflsW c _ _ | .uartImscW c _ _ | .uartRisW c _ _ | .uartMisW c _ _ | .uartIcrW c _ _
  | .uartDmacrW c _ _ => some c
  | .gpioStatusR c _ | .gpioCtrlR c _ | .gpioIntrR c _ | .gpioP0inteR c _ | .gpioP0intsR c _ | .gpioP1inteR c _
  | .gpioP1intsR c _ => some c
  | .gpioStatusW c _ _ | .gpioCtrlW c _ _ | .gpioIntrW c _ _ | .gpioP0inteW c _ _ | .gpioP0intsW c _ _ | .gpioP1inteW c _ _
  | .gpioP1intsW c _ _ => some c
  | .timerTimehwR c | .timerTimelwR c | .timerTimehrR c | .timerTimelrR c | .timerAlarmR c _ | .timerArmedR c | .timerRawhR c
  | .timerRawlR c | .timerPauseR c | .timerIntrR c | .timerInteR c | .timerIntsR c => some c
  | .timerTimehwW c _ | .timerTimelwW c _ | .timerTimehrW c _ | .timerTimelrW c _ | .timerAlarmW c _ _ | .timerArmedW c _
  | .timerRawhW c _ | .timerRawlW c _ | .timerPauseW c _ | .timerIntrW c _ | .timerInteW c _ | .timerIntsW c _ => some c
  | .uartReserved c _ _ _ _ | .gpioReserved c _ _ _ | .timerReserved c _ _ _ => some c
  | _ => none

/-- The UART instance a device access goes to, if it goes to one. -/
def Instr.accessUart : Instr → Option Nat
  | .uartDrR _ u | .uartRsrR _ u | .uartFrR _ u | .uartIlprR _ u | .uartIbrdR _ u | .uartFbrdR _ u | .uartLcrhR _ u | .uartCrR _ u
  | .uartIflsR _ u | .uartImscR _ u | .uartRisR _ u | .uartMisR _ u | .uartIcrR _ u | .uartDmacrR _ u => some u
  | .uartDrW _ u _ | .uartEcrW _ u _ | .uartFrW _ u _ | .uartIlprW _ u _ | .uartIbrdW _ u _ | .uartFbrdW _ u _ | .uartLcrhW _ u _
  | .uartCrW _ u _ | .uartIflsW _ u _ | .uartImscW _ u _ | .uartRisW _ u _ | .uartMisW _ u _ | .uartIcrW _ u _
  | .uartDmacrW _ u _ => some u
  | .uartReserved _ u _ _ _ => some u
  | _ => none

/-- The UART instance of a port. -/
def DevPort.uart? : DevPort → Option Nat
  | .uart u => some u
  | _ => none

theorem selRows_addressed (port : DevPort) : ∀ row ∈ selRows port, ∀ a,
    (row.op a).accessCore = some a.c ∧ (row.op a).accessUart = port.uart?.map fun _ => a.u := by
  cases port <;>
    (repeat' refine List.forall_mem_cons.2 ⟨fun a => ⟨rfl, rfl⟩, ?_⟩) <;>
    exact fun _ h => absurd h List.not_mem_nil

/-- A selector's operation is for the issuing core and the port's instance. -/
theorem decodeSel_addressed (port : DevPort) (sel : BitVec 13) (c : CoreId) (v : Word) :
    (decodeSel port sel c v).accessCore = some c ∧ (decodeSel port sel c v).accessUart = port.uart? := by
  unfold decodeSel
  split
  · next row hrow =>
    obtain ⟨h1, h2⟩ := selRows_addressed port row (List.mem_of_find?_eq_some hrow) ⟨c, portIndex port, selOffset sel, v⟩
    refine ⟨h1, ?_⟩
    rw [h2]
    cases port <;> rfl
  · cases port <;> exact ⟨rfl, rfl⟩

/-- How a device access of a direction ends for its core. -/
def Reply.endsAccess (dir : Dir) (c : CoreId) (r : Reply) : Prop :=
  match dir with
  | .read => ∃ v, r = .value c v
  | .write => r = .written c

end Sys2Proof
end

