-- ==== Sys2Proof/Laws/Effects.lean ====
section
/-! SUPPORT. All an operation can do when it answers a next state, said once: later proofs go by these cases and unfold no meaning. -/

namespace Sys2Proof.Machine

/-- A register write that keeps a UART's FIFO and stores only bits UARTCR has. -/
structure Uart.Stored (U V : Uart) : Prop where
  fifoBuf : V.fifoBuf = U.fifoBuf
  fifoRd : V.fifoRd = U.fifoRd
  fifoWr : V.fifoWr = U.fifoWr
  fifoLen : V.fifoLen = U.fifoLen
  cr : V.cr = U.cr ∨ ∃ v : Word, V.cr = lowBits 16 v &&& crMask

/-- What a device register access can do. -/
inductive DeviceEffect (s : State) : Instr → State → Prop where
  | answered (i : Instr) (c : CoreId) (v : Word) : DeviceEffect s i (s.answer c v)
  | ignored (i : Instr) (c : CoreId) : DeviceEffect s i (s.complete c)
  | reserved (i : Instr) (c : CoreId) (dir : Dir) (a v : Word) : DeviceEffect s i (s.guestError .reserved c dir a .word v)
  | drawn (c : CoreId) (u : Nat) : DeviceEffect s (.uartDrR c u) (s.answerDraw c)
  | popped (c : CoreId) (u : Nat) (U : Uart) (hU : s.uarts[u]? = some U) (hlen : 0 < U.fifoLen) :
      DeviceEffect s (.uartDrR c u) ((s.setUart u U.popData).answer c (zext32 U.oldest))
  | sent (c : CoreId) (u : Nat) (v : Word) (U : Uart) (hU : s.uarts[u]? = some U) (hen : U.txEnabled = true) :
      DeviceEffect s (.uartDrW c u v) (((s.send u (lowBits 8 v)).setUart u (U.raise uartTxBit)).complete c)
  | storedUart (i : Instr) (c : CoreId) (u : Nat) (U V : Uart) (hU : s.uarts[u]? = some U) (hV : U.Stored V) :
      DeviceEffect s i ((s.setUart u V).complete c)
  | storedCtrl (c : CoreId) (p : Fin 30) (v : Word) :
      DeviceEffect s (.gpioCtrlW c p v) ((s.setGpio { s.gpio with funcsel := s.gpio.funcsel.set p (lowBits 5 v) }).complete c)
  | clearedGpio (c : CoreId) (r : Fin 4) (v : Word) :
      DeviceEffect s (.gpioIntrW c r v)
        ((s.setGpio { s.gpio with intr := s.gpio.intr.set r (s.gpio.intr[r] &&& ~~~(v &&& intrMask r)) }).complete c)
  | enabled0 (c : CoreId) (r : Fin 4) (v : Word) :
      DeviceEffect s (.gpioP0inteW c r v) ((s.setGpio { s.gpio with inte0 := s.gpio.inte0.set r (v &&& intrMask r) }).complete c)
  | enabled1 (c : CoreId) (r : Fin 4) (v : Word) :
      DeviceEffect s (.gpioP1inteW c r v) ((s.setGpio { s.gpio with inte1 := s.gpio.inte1.set r (v &&& intrMask r) }).complete c)
  | rebased (c : CoreId) (v : Word) :
      DeviceEffect s (.timerTimelwW c v) ((s.setTimer (s.timer.rebase s.clockNow (v.setWidth 64))).complete c)
  | latched (c : CoreId) :
      DeviceEffect s (.timerTimehrR c)
        ((s.setTimer { s.timer with latch := s.timer.latch.set (latchSlot s.cfg.latchScope c) s.counter }).answer c
          (hiWord s.counter))
  | armed (c : CoreId) (k : Fin 4) (v : Word) :
      DeviceEffect s (.timerAlarmW c k v) ((s.setTimer ((s.timer.arm s.clockNow k v).evalAlarms s.clockNow)).complete c)
  | disarmed (c : CoreId) (v : Word) :
      DeviceEffect s (.timerArmedW c v) ((s.setTimer { s.timer with armed := s.timer.armed &&& ~~~(lowBits 4 v) }).complete c)
  | paused (c : CoreId) (v : Word) :
      DeviceEffect s (.timerPauseW c v)
        ((s.setTimer ((s.timer.setPaused s.clockNow (v.getLsbD 0)).evalAlarms s.clockNow)).complete c)
  | clearedTimer (c : CoreId) (v : Word) :
      DeviceEffect s (.timerIntrW c v) ((s.setTimer { s.timer with intr := s.timer.intr &&& ~~~(lowBits 4 v) }).complete c)
  | enabledTimer (c : CoreId) (v : Word) :
      DeviceEffect s (.timerInteW c v) ((s.setTimer { s.timer with inte := lowBits 4 v }).complete c)

/-- Every device access that answers a next state has one of those effects. -/
theorem deviceEffect_of_exec {i : Instr} {s t : State} (hi : i.isDeviceAccess = true) (h : exec i s = .next t) :
    DeviceEffect s i t := by
  cases i <;> first | exact absurd hi Bool.false_ne_true | skip
  all_goals
    simp only [
    exec, execUartDrR, execUartDrW, execUartRsrR, execUartEcrW, execUartFrR, execUartFrW, execUartIlprR, execUartIlprW,
    execUartIbrdR, execUartIbrdW, execUartFbrdR, execUartFbrdW, execUartLcrhR, execUartLcrhW, execUartCrR, execUartCrW,
    execUartIflsR, execUartIflsW, execUartImscR, execUartImscW, execUartRisR, execUartRisW, execUartMisR, execUartMisW,
    execUartIcrR, execUartIcrW, execUartDmacrR, execUartDmacrW, execUartReserved, execGpioStatusR, execGpioStatusW,
    execGpioCtrlR, execGpioCtrlW, execGpioIntrR, execGpioIntrW, execGpioP0inteR, execGpioP0inteW, execGpioP0intsR,
    execGpioP0intsW, execGpioP1inteR, execGpioP1inteW, execGpioP1intsR, execGpioP1intsW, execGpioReserved, execTimerTimehwR,
    execTimerTimehwW, execTimerTimelwR, execTimerTimelwW, execTimerTimehrR, execTimerTimehrW, execTimerTimelrR,
    execTimerTimelrW, execTimerAlarmR, execTimerAlarmW, execTimerArmedR, execTimerArmedW, execTimerRawhR, execTimerRawhW,
    execTimerRawlR, execTimerRawlW, execTimerPauseR, execTimerPauseW, execTimerIntrR, execTimerIntrW, execTimerInteR,
    execTimerInteW, execTimerIntsR, execTimerIntsW, execTimerReserved, readUart_next, writeUart_next, ignoreUart_next,
    readReg_next, writeGpio_next, writeTimer_next, ignoreReg_next, reservedAccess_next, withUart_next, next_inj] at h
  case uartDrR c u =>
    obtain ⟨U, hU, h⟩ := h
    split at h
    · next hlen => cases next_inj.1 h; exact .popped c u U hU hlen
    · cases next_inj.1 h; exact .drawn c u
  case uartDrW c u v =>
    obtain ⟨U, hU, h⟩ := h
    split at h
    · next hen => cases next_inj.1 h; exact .sent c u v U hU hen
    · cases next_inj.1 h; exact .ignored _ c
  case uartCrW c u v =>
    obtain ⟨U, hU, rfl⟩ := h
    exact .storedUart _ c u U _ hU ⟨rfl, rfl, rfl, rfl, .inr ⟨v, rfl⟩⟩
  case uartReserved c u dir off v =>
    obtain ⟨U, hU, rfl⟩ := h
    exact .reserved ..
  all_goals first
    | (obtain ⟨U, hU, rfl⟩ := h; exact .answered ..)
    | (obtain ⟨U, hU, rfl⟩ := h; exact .storedUart _ _ _ U _ hU ⟨rfl, rfl, rfl, rfl, .inl rfl⟩)
    | (obtain ⟨hU, rfl⟩ := h; exact .ignored ..)
    | (subst h; constructor)

/-- The direction of a bus transaction. -/
def busDir : Instr → Option Dir
  | .busR8 .. | .busR16 .. | .busR32 .. => some .read
  | .busW8 .. | .busW16 .. | .busW32 .. => some .write
  | _ => none

/-- What any operation can do. -/
inductive Effect (s : State) : Instr → State → Prop where
  | device (i : Instr) (t : State) (hi : i.isDeviceAccess = true) (h : DeviceEffect s i t) : Effect s i t
  | memoryRead (i : Instr) (hi : busDir i = some .read) (c : CoreId) (v : Word) : Effect s i (s.answer c v)
  | guestError (i : Instr) (kind : GuestErrorKind) (c : CoreId) (dir : Dir) (a : Word) (w : BusWidth) (v : Word)
      (hi : busDir i = some dir) : Effect s i (s.guestError kind c dir a w v)
  | memoryWritten (i : Instr) (hi : busDir i = some .write) (c : CoreId) (a : Word) (w : BusWidth) (v : Word) (off : Nat)
      (h : decodeAddr s.cfg a w = .mem .sram off) : Effect s i ((s.memWrite off w v).complete c)
  | deviceRead (c : CoreId) (a : Word) (port : DevPort) (off : BitVec 12) (hdec : decodeAddr s.cfg a .word = .dev port off)
      (j : Instr) (hsel : decodeSel port (selector .read off) c 0 = j) (t : State) (hj : j.isDeviceAccess = true)
      (hdir : j.accessDir = some .read) (h : DeviceEffect s j t) : Effect s (.busR32 c a) t
  | deviceWritten (c : CoreId) (a v : Word) (port : DevPort) (off : BitVec 12) (hdec : decodeAddr s.cfg a .word = .dev port off)
      (j : Instr) (hsel : decodeSel port (selector .write off) c v = j) (t : State) (hj : j.isDeviceAccess = true)
      (hdir : j.accessDir = some .write) (h : DeviceEffect s j t) : Effect s (.busW32 c a v) t
  | delivered (u : Nat) (bytes : List Byte) (U : Uart) (hU : s.uarts[u]? = some U) :
      Effect s (.uartRx u bytes) ((s.setUart u (U.receiveAll bytes)).setReply .done)
  | capacity (u n : Nat) : Effect s (.uartCapacity u) (s.setReply (.capacity n))
  | reported (p : Fin 30) (lvl : Bool) : Effect s (.gpioReport p lvl) ((s.setGpio (s.gpio.report p lvl)).setReply .done)
  | advanced (x : Time) (h : s.clockNow ≤ x) :
      Effect s (.clockAdvance x) (((s.setClock x).setTimer (s.timer.evalAlarms x)).setReply .done)
  | reset : Effect s .hostReset (s.resetDevices.setReply .done)
  | snapshotTaken : Effect s .hostSnapshot (s.setReply (.snapshot s.takeSnapshot))
  | restored (snap : Snapshot) (hfit : snapshotFits snap = true) (hn : snap.uarts.length = s.cfg.uartCount) :
      Effect s (.hostRestore snap) ((s.restoreDevices snap).setReply .done)

theorem Effect.of_busRead {i : Instr} {s t : State} {c : CoreId} {a : Word} {w : BusWidth} (hi : busDir i = some .read)
    (hw : w = .word → i = .busR32 c a)
    (h : busRead c a w s = .next t) : Effect s i t := by
  rcases busRead_next h with ⟨v, rfl⟩ | ⟨kind, rfl⟩ | ⟨port, off, hdec, hdev⟩
  · exact .memoryRead i hi c v
  · exact .guestError i kind c .read a w 0 hi
  · have hdir := decodeSel_directed port (selector .read off) c 0
    rw [devRead_eq] at hdev
    obtain rfl := (decodeAddr_dev hdec).1
    rw [hw rfl]
    exact .deviceRead c a port off hdec _ rfl t hdir.1 (by simpa using hdir.2) (deviceEffect_of_exec hdir.1 hdev)

theorem Effect.of_busWrite {i : Instr} {s t : State} {c : CoreId} {a v : Word} {w : BusWidth} (hi : busDir i = some .write)
    (hw : w = .word → i = .busW32 c a v)
    (h : busWrite c a w v s = .next t) : Effect s i t := by
  rcases busWrite_next h with ⟨off, hdec, rfl⟩ | ⟨kind, rfl⟩ | ⟨port, off, hdec, hdev⟩
  · exact .memoryWritten i hi c a w v off hdec
  · exact .guestError i kind c .write a w v hi
  · have hdir := decodeSel_directed port (selector .write off) c v
    rw [devWrite_eq] at hdev
    obtain rfl := (decodeAddr_dev hdec).1
    rw [hw rfl]
    exact .deviceWritten c a v port off hdec _ rfl t hdir.1 (by simpa using hdir.2) (deviceEffect_of_exec hdir.1 hdev)

/-- Every operation that answers a next state has one of those effects. -/
theorem effect_of_exec {i : Instr} {s t : State} (h : exec i s = .next t) : Effect s i t := by
  by_cases hi : i.isDeviceAccess = true
  · exact .device i t hi (deviceEffect_of_exec hi h)
  cases i <;> first | exact absurd rfl hi | skip
  case busR8 c a => exact .of_busRead (c := c) (a := a) (w := .byte) rfl (fun hw => by cases hw) h
  case busR16 c a => exact .of_busRead (c := c) (a := a) (w := .half) rfl (fun hw => by cases hw) h
  case busR32 c a => exact .of_busRead (c := c) (a := a) (w := .word) rfl (fun _ => rfl) h
  case busW8 c a v => exact .of_busWrite (c := c) (a := a) (v := v) (w := .byte) rfl (fun hw => by cases hw) h
  case busW16 c a v => exact .of_busWrite (c := c) (a := a) (v := v) (w := .half) rfl (fun hw => by cases hw) h
  case busW32 c a v => exact .of_busWrite (c := c) (a := a) (v := v) (w := .word) rfl (fun _ => rfl) h
  case uartRx u bytes =>
    obtain ⟨U, hU, h⟩ := withUart_next.1 h
    cases next_inj.1 h
    exact .delivered u bytes U hU
  case uartCapacity u =>
    obtain ⟨U, hU, h⟩ := withUart_next.1 h
    cases next_inj.1 h
    exact .capacity ..
  case gpioReport p lvl => cases next_inj.1 h; exact .reported p lvl
  case clockAdvance x =>
    simp only [exec, execClockAdvance] at h
    split at h
    · cases refused_ne_next.1 h
    · next hx => cases next_inj.1 h; exact .advanced x (BitVec.not_lt.1 hx)
  case hostReset => cases next_inj.1 h; exact .reset
  case hostSnapshot => cases next_inj.1 h; exact .snapshotTaken
  case hostRestore snap =>
    simp only [exec, execHostRestore] at h
    split at h
    · next hfit =>
      cases next_inj.1 h
      simp only [Bool.and_eq_true, beq_iff_eq] at hfit
      exact .restored snap hfit.1 hfit.2
    · cases refused_ne_next.1 h

end Sys2Proof.Machine
end

