-- ==== Sys2Proof/Laws/Fifo.lean ====
section
/-! SUPPORT. The FIFO as the list of the bytes it holds. -/

namespace Sys2Proof.Machine

@[simp] theorem Uart.length_held (U : Uart) : U.held.length = U.fifoLen := by simp [Uart.held]

/-- The place of the `i`-th byte held. -/
theorem Uart.held_getElem (U : Uart) (i : Nat) (h : i < U.held.length) :
    U.held[i] = U.fifoBuf[(U.fifoRd + BitVec.ofNat 5 i).toNat]'(U.fifoRd + BitVec.ofNat 5 i).isLt := by
  simp [Uart.held]

/-- A byte pushed comes after the bytes held, and leaves them as they are (42_uart.md R220). -/
theorem Uart.held_push (U : Uart) (b : Byte) (hc : U.cursorsAgree) (hl : U.fifoLen < 32) : (U.push b).held = U.held ++ [b] := by
  apply List.ext_getElem
  · simp [Uart.length_held, Uart.push]
  · intro i h1 h2
    rw [Uart.held_getElem, List.getElem_append]
    have hrd : (U.push b).fifoRd = U.fifoRd := rfl
    have hbuf : (U.push b).fifoBuf = U.fifoBuf.set U.fifoWr.toNat b U.fifoWr.isLt := rfl
    simp only [hrd, hbuf, Vector.getElem_set]
    have hi : i < 33 := by simp [Uart.length_held, Uart.push] at h1; omega
    by_cases h : i < U.held.length
    · rw [dif_pos h, Uart.held_getElem]
      rw [Uart.length_held] at h
      rw [if_neg]
      rw [hc]
      intro heq
      have := BitVec.eq_of_toNat_eq heq
      have h5 : BitVec.ofNat 5 U.fifoLen = BitVec.ofNat 5 i := by simpa using this
      have := congrArg BitVec.toNat h5
      simp at this
      omega
    · rw [dif_neg h]
      have hlen : i = U.fifoLen := by
        simp [Uart.length_held, Uart.push] at h1 h
        omega
      subst hlen
      rw [if_pos (by rw [hc])]
      simp

/-- A pop takes the oldest byte and leaves the rest (42_uart.md R220). -/
theorem Uart.held_pop (U : Uart) (h : 0 < U.fifoLen) : U.held = U.oldest :: U.pop.held := by
  apply List.ext_getElem
  · simp [Uart.length_held, Uart.pop]; omega
  · intro i h1 h2
    rw [Uart.held_getElem]
    cases i with
    | zero => simp [Uart.oldest]
    | succ i =>
      simp only [List.getElem_cons_succ, Uart.held_getElem]
      have : U.fifoRd + BitVec.ofNat 5 (i + 1) = U.pop.fifoRd + BitVec.ofNat 5 i := by
        simp only [Uart.pop, BitVec.ofNat_add]
        ac_rfl
      simp only [this]
      rfl

/-- A push keeps the cursors in agreement. -/
theorem Uart.cursorsAgree_push (U : Uart) (b : Byte) (h : U.cursorsAgree) : (U.push b).cursorsAgree := by
  simp only [Uart.cursorsAgree, Uart.push] at h ⊢
  rw [h, BitVec.ofNat_add, BitVec.add_assoc]
  rfl

/-- A pop of a FIFO that holds a byte keeps the cursors in agreement. -/
theorem Uart.cursorsAgree_pop (U : Uart) (hl : 0 < U.fifoLen) (h : U.cursorsAgree) : U.pop.cursorsAgree := by
  simp only [Uart.cursorsAgree, Uart.pop] at h ⊢
  obtain ⟨n, hn⟩ : ∃ n, U.fifoLen = n + 1 := ⟨U.fifoLen - 1, by omega⟩
  rw [h, hn, BitVec.ofNat_add]
  simp only [Nat.add_sub_cancel]
  ac_rfl

/-- A byte received keeps the cursors in agreement, whether it is taken or dropped. -/
theorem Uart.cursorsAgree_receive (U : Uart) (b : Byte) (h : U.cursorsAgree) : (U.receive b).cursorsAgree := by
  unfold Uart.receive
  split
  · split
    · exact Uart.cursorsAgree_push U b h
    · exact h
  · exact h

/-- A restore leaves the cursors of a record as they are, and with them whether they agree. -/
theorem Uart.cursorsAgree_restored (U : Uart) : U.restored.cursorsAgree ↔ U.cursorsAgree := Iff.rfl

/-- Raising and clearing interrupt bits leaves the bytes held. -/
@[simp] theorem Uart.held_raise (U : Uart) (bits : BitVec 11) : (U.raise bits).held = U.held := rfl
@[simp] theorem Uart.held_clear (U : Uart) (bits : BitVec 11) : (U.clear bits).held = U.held := rfl

end Sys2Proof.Machine
end

