-- ==== Sys2Proof/Laws/Gpio.lean ====
section
/-! SUPPORT. A pin report bit by bit, and the bits a register write keeps. -/

namespace Sys2Proof.Machine

/-- Where a pin's four bits stand: bit `b` of register `r` is one of them. -/
def pinHolds (p : Fin 30) (r : Fin 4) (b : Nat) : Bool := decide (r.val = p.val / 8 ∧ b / 4 = p.val % 8)

/-- Reading a register after one register is written. -/
theorem Vector.get_set_fin {α : Type} (xs : Vector α 4) (i j : Fin 4) (x : α) : (xs.set i x)[j] = if i = j then x else xs[j] := by
  simp only [Fin.getElem_fin, Vector.getElem_set, Fin.ext_iff]

/-- The bits of `cond` stand at the pin's place and nowhere else. -/
theorem pinBits_getLsbD (p : Fin 30) (cond : BitVec 4) (b : Nat) (hb : b < 32) :
    (zext32 cond <<< pinShift p).getLsbD b = (decide (b / 4 = p.val % 8) && cond.getLsbD (b % 4)) := by
  have hp : pinShift p = 4 * (p.val % 8) := rfl
  simp only [zext32, BitVec.getLsbD_shiftLeft, BitVec.getLsbD_setWidth, hp, hb, decide_true, Bool.true_and]
  by_cases h : b / 4 = p.val % 8
  · have h1 : ¬ b < 4 * (p.val % 8) := by omega
    have h2 : b - 4 * (p.val % 8) = b % 4 := by omega
    have h3 : b % 4 < 32 := by omega
    simp only [h, h1, h2, h3, decide_true, decide_false, Bool.not_false, Bool.true_and]
  · by_cases h1 : b < 4 * (p.val % 8)
    · simp [h, h1]
    · have h2 : cond.getLsbD (b - 4 * (p.val % 8)) = false := BitVec.getLsbD_of_ge _ _ (by omega)
      simp [h, h2]

/-- The enables of the pin (43_gpio.md R280 `gate`), at the place `j` of a condition. -/
theorem Gpio.gate_getLsbD (g : Gpio) (p : Fin 30) (j : Nat) (hj : j < 4) :
    (g.gate p).getLsbD j =
      (g.inte0[pinReg p].getLsbD (4 * (p.val % 8) + j) || g.inte1[pinReg p].getLsbD (4 * (p.val % 8) + j)) := by
  simp only [Gpio.gate, BitVec.getLsbD_setWidth, BitVec.getLsbD_ushiftRight, BitVec.getLsbD_or, hj, decide_true, Bool.true_and]
  rfl

/-- The pending bits after conditions are recorded: at the pin's place the enabled conditions are added, and no other bit
changes. -/
theorem Gpio.recordConditions_getLsbD (g : Gpio) (p : Fin 30) (cond : BitVec 4) (r : Fin 4) (b : Nat) (hb : b < 32) :
    (g.recordConditions p cond).intr[r].getLsbD b =
      (g.intr[r].getLsbD b ||
        (pinHolds p r b && cond.getLsbD (b % 4) && (g.inte0[r].getLsbD b || g.inte1[r].getLsbD b))) := by
  simp only [Gpio.recordConditions]
  rw [Vector.get_set_fin]
  by_cases hr : pinReg p = r
  · subst hr
    rw [if_pos rfl, BitVec.getLsbD_or, pinBits_getLsbD _ _ _ hb, BitVec.getLsbD_and, Gpio.gate_getLsbD _ _ _ (Nat.mod_lt _ (by decide))]
    have hreg : (pinReg p).val = p.val / 8 := rfl
    by_cases h : b / 4 = p.val % 8
    · have hb' : 4 * (p.val % 8) + b % 4 = b := by omega
      simp only [pinHolds, h, hreg, hb', and_self, decide_true, Bool.true_and]
    · simp [pinHolds, h]
  · have hr' : ¬ r.val = p.val / 8 := fun h => hr (Fin.ext h.symm)
    rw [if_neg hr]
    simp [pinHolds, hr']

@[simp] theorem Gpio.recordConditions_level (g : Gpio) (p : Fin 30) (cond : BitVec 4) : (g.recordConditions p cond).level = g.level := rfl
@[simp] theorem Gpio.recordConditions_funcsel (g : Gpio) (p : Fin 30) (cond : BitVec 4) :
    (g.recordConditions p cond).funcsel = g.funcsel := rfl
@[simp] theorem Gpio.recordConditions_inte0 (g : Gpio) (p : Fin 30) (cond : BitVec 4) : (g.recordConditions p cond).inte0 = g.inte0 := rfl
@[simp] theorem Gpio.recordConditions_inte1 (g : Gpio) (p : Fin 30) (cond : BitVec 4) : (g.recordConditions p cond).inte1 = g.inte1 := rfl

/-- The conditions by their places: level-low, level-high, edge-low, edge-high (43_gpio.md R280). -/
theorem pinConditions_getLsbD : ∀ (prev lvl : Bool),
    (pinConditions prev lvl).getLsbD 0 = !lvl ∧ (pinConditions prev lvl).getLsbD 1 = lvl ∧
    (pinConditions prev lvl).getLsbD 2 = (prev && !lvl) ∧ (pinConditions prev lvl).getLsbD 3 = (!prev && lvl) := by
  decide

end Sys2Proof.Machine
end

