-- ==== Sys2Proof/Laws/Timer.lean ====
section
/-! SUPPORT. What arming, pausing and rebasing leave alone, and when a target just written is at or below the counter. -/

namespace Sys2Proof.Machine

@[simp] theorem Timer.setPaused_armed (t : Timer) (x : Time) (p : Bool) : (t.setPaused x p).armed = t.armed := by
  unfold Timer.setPaused; split; rfl; split <;> rfl
@[simp] theorem Timer.setPaused_target (t : Timer) (x : Time) (p : Bool) : (t.setPaused x p).target = t.target := by
  unfold Timer.setPaused; split; rfl; split <;> rfl
@[simp] theorem Timer.setPaused_intr (t : Timer) (x : Time) (p : Bool) : (t.setPaused x p).intr = t.intr := by
  unfold Timer.setPaused; split; rfl; split <;> rfl
@[simp] theorem Timer.setPaused_latch (t : Timer) (x : Time) (p : Bool) : (t.setPaused x p).latch = t.latch := by
  unfold Timer.setPaused; split; rfl; split <;> rfl
@[simp] theorem Timer.setPaused_inte (t : Timer) (x : Time) (p : Bool) : (t.setPaused x p).inte = t.inte := by
  unfold Timer.setPaused; split; rfl; split <;> rfl

@[simp] theorem Timer.setCounter_armed (t : Timer) (y x : Time) : (t.setCounter y x).armed = t.armed := by
  unfold Timer.setCounter; split <;> rfl
@[simp] theorem Timer.setCounter_target (t : Timer) (y x : Time) : (t.setCounter y x).target = t.target := by
  unfold Timer.setCounter; split <;> rfl
@[simp] theorem Timer.setCounter_intr (t : Timer) (y x : Time) : (t.setCounter y x).intr = t.intr := by
  unfold Timer.setCounter; split <;> rfl
@[simp] theorem Timer.setCounter_latch (t : Timer) (y x : Time) : (t.setCounter y x).latch = t.latch := by
  unfold Timer.setCounter; split <;> rfl
@[simp] theorem Timer.setCounter_inte (t : Timer) (y x : Time) : (t.setCounter y x).inte = t.inte := by
  unfold Timer.setCounter; split <;> rfl
@[simp] theorem Timer.setCounter_paused (t : Timer) (y x : Time) : (t.setCounter y x).paused = t.paused := by
  unfold Timer.setCounter; split <;> rfl

@[simp] theorem Timer.arm_counter (t : Timer) (y x : Time) (k : Fin 4) (v : Word) : (t.arm y k v).counter x = t.counter x := rfl
@[simp] theorem Timer.arm_intr (t : Timer) (y : Time) (k : Fin 4) (v : Word) : (t.arm y k v).intr = t.intr := rfl

/-- Setting bit `k` of a 4-bit field sets that bit and no other. -/
theorem orBit_getLsbD : ∀ (k j : Fin 4) (a : BitVec 4), (a ||| 1#4 <<< k.val).getLsbD j.val = (decide (j = k) || a.getLsbD j.val) := by
  decide

theorem Timer.arm_armed (t : Timer) (y : Time) (k j : Fin 4) (v : Word) :
    (t.arm y k v).armed.getLsbD j.val = (decide (j = k) || t.armed.getLsbD j.val) := orBit_getLsbD k j t.armed

theorem Timer.arm_target (t : Timer) (y : Time) (k j : Fin 4) (v : Word) :
    (t.arm y k v).target[j] = if k = j then hiWord (t.counter y) ++ v else t.target[j] := Vector.get_set_fin ..

/-- A value with the counter's own high word is at or below the counter exactly when its low word is. -/
theorem hiWord_append_le (x : Time) (v : Word) : hiWord x ++ v ≤ x ↔ v ≤ loWord x := by
  have hx := x.isLt
  have hv := v.isLt
  have happ : (hiWord x ++ v).toNat = x.toNat / 2 ^ 32 * 2 ^ 32 + v.toNat := by
    rw [BitVec.toNat_append, ← Nat.shiftLeft_add_eq_or_of_lt hv, Nat.shiftLeft_eq]
    simp only [hiWord, BitVec.extractLsb'_toNat, Nat.shiftRight_eq_div_pow]
    omega
  have hlo : (loWord x).toNat = x.toNat % 2 ^ 32 := by simp [loWord, BitVec.extractLsb'_toNat]
  rw [BitVec.le_def, BitVec.le_def, happ, hlo]
  omega

end Sys2Proof.Machine
end

