-- ==== Sys2Proof/Machine/Script.lean ====
section
/-! DEFINITION. The test-script notation (30_encoding.md R140, R141). It drives the hardware and is no part of it: its statement index,
its variable `acc` and the issuing core are the harness's, and nothing of it stands in State. -/

namespace Sys2Proof.Machine

/-- The data of a write statement: a literal or the last read's result (30_encoding.md R140). -/
inductive ScriptValue where
  | lit (v : Word)
  | acc
  deriving DecidableEq, Repr

/-- A script statement (30_encoding.md R140). -/
inductive ScriptStmt where
  | read (w : BusWidth) (addr : Word)
  | write (w : BusWidth) (addr : Word) (v : ScriptValue)
  | bz (mask : Word) (label : Nat)
  | bnz (mask : Word) (label : Nat)
  | label (name : Nat)
  | expect (mask value : Word)
  | rx (u : Nat) (bytes : List Byte)
  | pin (p : Nat) (lvl : BitVec 1)
  | adv (d : Time)
  | reset
  | core (c : CoreId)
  | halt
  deriving DecidableEq, Repr

/-- Where a script stands. -/
inductive ScriptStatus where
  | running
  | halted
  /-- An EXPECT did not hold. -/
  | expectFailed
  /-- A branch names a label the script does not have. -/
  | noLabel
  /-- The machine refused the operation. -/
  | refused (r : Refusal)
  deriving DecidableEq, Repr

/-- The harness beside the machine. -/
structure Harness where
  idx : Nat
  acc : Word
  core : CoreId
  status : ScriptStatus
  machine : State
  deriving DecidableEq, Repr

/-- The width code of a transaction (30_encoding.md R120). -/
def wcodeOf : BusWidth → BitVec 2
  | .byte => 0b00
  | .half => 0b01
  | .word => 0b10

/-- The transaction record a statement issues (30_encoding.md R140). -/
def scriptTxn (c : CoreId) (dir : Dir) (w : BusWidth) (addr v : Word) : RawOp :=
  .txn ⟨bitOfCore c, bitOfDir dir, wcodeOf w, addr, v⟩

/-- The operation a statement issues, if it issues one (30_encoding.md R140, the encoding column). -/
def ScriptStmt.op (st : ScriptStmt) (h : Harness) : Option RawOp :=
  match st with
  | .read w a => some (scriptTxn h.core .read w a 0)
  | .write w a (.lit v) => some (scriptTxn h.core .write w a v)
  | .write w a .acc => some (scriptTxn h.core .write w a h.acc)
  | .rx u bytes => some (.evt { Evt.zeros with code := 0x1, u := u, bytes := bytes })
  | .pin p l => some (.evt { Evt.zeros with code := 0x3, pin := p, lvl := l })
  | .adv d => some (.evt { Evt.zeros with code := 0x4, t := h.machine.clockNow + d })
  | .reset => some (.evt { Evt.zeros with code := 0x5 })
  | _ => none

/-- The statement after a label. -/
def findLabel (script : List ScriptStmt) (l : Nat) : Option Nat := script.findIdx? (· == .label l)

/-- Go to a label. -/
def Harness.goto (h : Harness) (script : List ScriptStmt) (l : Nat) : Harness :=
  match findLabel script l with
  | some i => { h with idx := i }
  | none => { h with status := .noLabel }

/-- Issue an operation and keep a read's result in `acc`. -/
def Harness.issue (h : Harness) (op : RawOp) : Harness :=
  match step (h.machine.setPending (op :: h.machine.pending)) with
  | .next s =>
    match s.reply with
    | .value _ v => { h with idx := h.idx + 1, acc := v, machine := s }
    | _ => { h with idx := h.idx + 1, machine := s }
  | .refused r => { h with status := .refused r }

/-- One statement of a script (30_encoding.md R140). -/
def Harness.stepScript (script : List ScriptStmt) (h : Harness) : Harness :=
  match h.status with
  | .running =>
    match script[h.idx]? with
    | none => { h with status := .halted }
    | some st =>
      match st.op h with
      | some op => h.issue op
      | none =>
        match st with
        | .halt => { h with status := .halted }
        | .bz m l => if h.acc &&& m = 0 then h.goto script l else { h with idx := h.idx + 1 }
        | .bnz m l => if h.acc &&& m = 0 then { h with idx := h.idx + 1 } else h.goto script l
        | .expect m v => if h.acc &&& m = v then { h with idx := h.idx + 1 } else { h with status := .expectFailed }
        | .core c => { h with idx := h.idx + 1, core := c }
        | _ => { h with idx := h.idx + 1 }
  | _ => h

/-- A script from its start: core 0 issues until an `@CORE` says otherwise (30_encoding.md R140). -/
def Harness.start (s : State) : Harness := ⟨0, 0, .core0, .running, s⟩

/-! The pseudo-operations (30_encoding.md R141), with the addresses of a configuration. -/

/-- `BASE+off` for a device. -/
def regAddr (cfg : Config) (port : DevPort) (off : Nat) : Word := BitVec.ofNat 32 (portBase cfg port + off)

/-- PUTC u, b -/
def putc (cfg : Config) (u : Nat) (b : Word) : List ScriptStmt := [.write .word (regAddr cfg (.uart u) 0x00) (.lit b)]

/-- GETC u -/
def getc (cfg : Config) (u : Nat) : List ScriptStmt := [.read .word (regAddr cfg (.uart u) 0x00)]

/-- WAITRX u, L -/
def waitrx (cfg : Config) (u l : Nat) : List ScriptStmt := [.label l, .read .word (regAddr cfg (.uart u) 0x18), .bnz 0x10 l]

/-- READTIME64 -/
def readtime64 (cfg : Config) : List ScriptStmt :=
  [.read .word (regAddr cfg .timer 0x08), .read .word (regAddr cfg .timer 0x0C)]

/-- ARM k, v -/
def armAlarm (cfg : Config) (k : Nat) (v : Word) : List ScriptStmt := [.write .word (regAddr cfg .timer (0x10 + 4 * k)) (.lit v)]

/-- DISARM k -/
def disarmAlarm (cfg : Config) (k : Nat) : List ScriptStmt := [.write .word (regAddr cfg .timer 0x20) (.lit (1 <<< k))]

/-- ACKUART u, m -/
def ackUart (cfg : Config) (u : Nat) (m : Word) : List ScriptStmt := [.write .word (regAddr cfg (.uart u) 0x44) (.lit m)]

/-- ACKGPIO r, m -/
def ackGpio (cfg : Config) (r : Nat) (m : Word) : List ScriptStmt := [.write .word (regAddr cfg .gpio (0xF0 + 4 * r)) (.lit m)]

/-- ACKTIMER m -/
def ackTimer (cfg : Config) (m : Word) : List ScriptStmt := [.write .word (regAddr cfg .timer 0x34) (.lit m)]

/-- B L -/
def branchAlways (l : Nat) : List ScriptStmt := [.bz 0 l]

end Sys2Proof.Machine
end

