-- ==== Sys2Proof/Tests/Slice0.lean ====
section
/-! SUPPORT. Tests: ill-formed terms refused, every operation's record written out from 30_encoding.md, one-step tests with the results
of 95_test_vectors.md, and for each statement with hypotheses a state that meets them. -/

namespace Sys2Proof.Tests

open Machine

/-! Ill-formed terms. -/

theorem test_wellFormed_empty_delivery : (Instr.uartRx 0 []).wellFormed = false := by decide

theorem test_wellFormed_reserved_at_a_register :
    (Instr.uartReserved .core0 0 .write 0x048 1).wellFormed = false ∧ (Instr.gpioReserved .core0 .write 0x15C 1).wellFormed = false ∧
    (Instr.timerReserved .core0 .write 0x040 1).wellFormed = false := by decide

theorem test_wellFormed_read_with_data :
    (Instr.uartReserved .core0 0 .read 0x04C 1).wellFormed = false ∧ (Instr.gpioReserved .core0 .read 0x110 1).wellFormed = false ∧
    (Instr.timerReserved .core0 .read 0x02C 1).wellFormed = false := by decide

/-- The snapshot of the reset state with its fields changed. -/
def snapWith (f : Uart → Uart) (g : Gpio → Gpio) : Snapshot :=
  { State.reset.takeSnapshot with uarts := [f Uart.reset, Uart.reset], gpio := g Gpio.reset }

theorem test_wellFormed_snapshot_length : (Instr.hostRestore (snapWith (fun U => { U with fifoLen := 33 }) id)).wellFormed = false := by
  decide

theorem test_wellFormed_snapshot_registers_3 :
    (Instr.hostRestore (snapWith id fun g => { g with intr := g.intr.set 3 0x01000000 })).wellFormed = false ∧
    (Instr.hostRestore (snapWith id fun g => { g with inte0 := g.inte0.set 3 0x01000000 })).wellFormed = false ∧
    (Instr.hostRestore (snapWith id fun g => { g with inte1 := g.inte1.set 3 0x80000000 })).wellFormed = false := by decide

theorem test_wellFormed_of_listed_and_unlisted :
    (Instr.uartReserved .core0 0 .write 0xFE0 1).wellFormed = true ∧ (Instr.hostRestore (snapWith id id)).wellFormed = true ∧
    (Instr.uartRx 0 [0]).wellFormed = true := by decide

/-! Records written out from 30_encoding.md R120 to R132. -/

/-- A device access of core 1 with the data 0x5A5A5A5A. -/
def acc1 (port : DevPort) (sel : BitVec 13) : RawOp := .devsel ⟨port, sel, 1, 0x5A5A5A5A⟩

theorem test_decode_bus :
    decode (.txn ⟨0, 0, 0b00, 0x20000001, 0⟩) = .ok (.busR8 .core0 0x20000001) ∧
    decode (.txn ⟨1, 0, 0b01, 0x20000002, 9⟩) = .ok (.busR16 .core1 0x20000002) ∧
    decode (.txn ⟨0, 0, 0b10, 0x40034018, 0⟩) = .ok (.busR32 .core0 0x40034018) ∧
    decode (.txn ⟨1, 1, 0b00, 0x20000001, 0x1AB⟩) = .ok (.busW8 .core1 0x20000001 0x1AB) ∧
    decode (.txn ⟨0, 1, 0b01, 0x20000002, 0xBEEF⟩) = .ok (.busW16 .core0 0x20000002 0xBEEF) ∧
    decode (.txn ⟨1, 1, 0b10, 0x40054004, 0x100⟩) = .ok (.busW32 .core1 0x40054004 0x100) := by decide

theorem test_decode_uart_reads :
    decode (acc1 (.uart 1) 0x0000) = .ok (.uartDrR .core1 1) ∧
    decode (acc1 (.uart 1) 0x0004) = .ok (.uartRsrR .core1 1) ∧
    decode (acc1 (.uart 1) 0x0018) = .ok (.uartFrR .core1 1) ∧
    decode (acc1 (.uart 1) 0x0020) = .ok (.uartIlprR .core1 1) ∧
    decode (acc1 (.uart 1) 0x0024) = .ok (.uartIbrdR .core1 1) ∧
    decode (acc1 (.uart 1) 0x0028) = .ok (.uartFbrdR .core1 1) ∧
    decode (acc1 (.uart 1) 0x002C) = .ok (.uartLcrhR .core1 1) ∧
    decode (acc1 (.uart 1) 0x0030) = .ok (.uartCrR .core1 1) ∧
    decode (acc1 (.uart 1) 0x0034) = .ok (.uartIflsR .core1 1) ∧
    decode (acc1 (.uart 1) 0x0038) = .ok (.uartImscR .core1 1) ∧
    decode (acc1 (.uart 1) 0x003C) = .ok (.uartRisR .core1 1) ∧
    decode (acc1 (.uart 1) 0x0040) = .ok (.uartMisR .core1 1) ∧
    decode (acc1 (.uart 1) 0x0044) = .ok (.uartIcrR .core1 1) ∧
    decode (acc1 (.uart 1) 0x0048) = .ok (.uartDmacrR .core1 1) := by decide

theorem test_decode_uart_writes :
    decode (acc1 (.uart 1) 0x1000) = .ok (.uartDrW .core1 1 0x5A5A5A5A) ∧
    decode (acc1 (.uart 1) 0x1004) = .ok (.uartEcrW .core1 1 0x5A5A5A5A) ∧
    decode (acc1 (.uart 1) 0x1018) = .ok (.uartFrW .core1 1 0x5A5A5A5A) ∧
    decode (acc1 (.uart 1) 0x1020) = .ok (.uartIlprW .core1 1 0x5A5A5A5A) ∧
    decode (acc1 (.uart 1) 0x1024) = .ok (.uartIbrdW .core1 1 0x5A5A5A5A) ∧
    decode (acc1 (.uart 1) 0x1028) = .ok (.uartFbrdW .core1 1 0x5A5A5A5A) ∧
    decode (acc1 (.uart 1) 0x102C) = .ok (.uartLcrhW .core1 1 0x5A5A5A5A) ∧
    decode (acc1 (.uart 1) 0x1030) = .ok (.uartCrW .core1 1 0x5A5A5A5A) ∧
    decode (acc1 (.uart 1) 0x1034) = .ok (.uartIflsW .core1 1 0x5A5A5A5A) ∧
    decode (acc1 (.uart 1) 0x1038) = .ok (.uartImscW .core1 1 0x5A5A5A5A) ∧
    decode (acc1 (.uart 1) 0x103C) = .ok (.uartRisW .core1 1 0x5A5A5A5A) ∧
    decode (acc1 (.uart 1) 0x1040) = .ok (.uartMisW .core1 1 0x5A5A5A5A) ∧
    decode (acc1 (.uart 1) 0x1044) = .ok (.uartIcrW .core1 1 0x5A5A5A5A) ∧
    decode (acc1 (.uart 1) 0x1048) = .ok (.uartDmacrW .core1 1 0x5A5A5A5A) := by decide

theorem test_decode_gpio_reads :
    decode (acc1 .gpio 0x00E8) = .ok (.gpioStatusR .core1 29) ∧
    decode (acc1 .gpio 0x00EC) = .ok (.gpioCtrlR .core1 29) ∧
    decode (acc1 .gpio 0x002C) = .ok (.gpioCtrlR .core1 5) ∧
    decode (acc1 .gpio 0x00F8) = .ok (.gpioIntrR .core1 2) ∧
    decode (acc1 .gpio 0x010C) = .ok (.gpioP0inteR .core1 3) ∧
    decode (acc1 .gpio 0x0120) = .ok (.gpioP0intsR .core1 0) ∧
    decode (acc1 .gpio 0x0134) = .ok (.gpioP1inteR .core1 1) ∧
    decode (acc1 .gpio 0x0158) = .ok (.gpioP1intsR .core1 2) := by decide

theorem test_decode_gpio_writes :
    decode (acc1 .gpio 0x10E8) = .ok (.gpioStatusW .core1 29 0x5A5A5A5A) ∧
    decode (acc1 .gpio 0x10EC) = .ok (.gpioCtrlW .core1 29 0x5A5A5A5A) ∧
    decode (acc1 .gpio 0x102C) = .ok (.gpioCtrlW .core1 5 0x5A5A5A5A) ∧
    decode (acc1 .gpio 0x10F8) = .ok (.gpioIntrW .core1 2 0x5A5A5A5A) ∧
    decode (acc1 .gpio 0x110C) = .ok (.gpioP0inteW .core1 3 0x5A5A5A5A) ∧
    decode (acc1 .gpio 0x1120) = .ok (.gpioP0intsW .core1 0 0x5A5A5A5A) ∧
    decode (acc1 .gpio 0x1134) = .ok (.gpioP1inteW .core1 1 0x5A5A5A5A) ∧
    decode (acc1 .gpio 0x1158) = .ok (.gpioP1intsW .core1 2 0x5A5A5A5A) := by decide

theorem test_decode_timer_reads :
    decode (acc1 .timer 0x0000) = .ok (.timerTimehwR .core1) ∧
    decode (acc1 .timer 0x0004) = .ok (.timerTimelwR .core1) ∧
    decode (acc1 .timer 0x0008) = .ok (.timerTimehrR .core1) ∧
    decode (acc1 .timer 0x000C) = .ok (.timerTimelrR .core1) ∧
    decode (acc1 .timer 0x0020) = .ok (.timerArmedR .core1) ∧
    decode (acc1 .timer 0x0024) = .ok (.timerRawhR .core1) ∧
    decode (acc1 .timer 0x0028) = .ok (.timerRawlR .core1) ∧
    decode (acc1 .timer 0x0030) = .ok (.timerPauseR .core1) ∧
    decode (acc1 .timer 0x0034) = .ok (.timerIntrR .core1) ∧
    decode (acc1 .timer 0x0038) = .ok (.timerInteR .core1) ∧
    decode (acc1 .timer 0x0040) = .ok (.timerIntsR .core1) ∧
    decode (acc1 .timer 0x001C) = .ok (.timerAlarmR .core1 3) := by decide

theorem test_decode_timer_writes :
    decode (acc1 .timer 0x1000) = .ok (.timerTimehwW .core1 0x5A5A5A5A) ∧
    decode (acc1 .timer 0x1004) = .ok (.timerTimelwW .core1 0x5A5A5A5A) ∧
    decode (acc1 .timer 0x1008) = .ok (.timerTimehrW .core1 0x5A5A5A5A) ∧
    decode (acc1 .timer 0x100C) = .ok (.timerTimelrW .core1 0x5A5A5A5A) ∧
    decode (acc1 .timer 0x1020) = .ok (.timerArmedW .core1 0x5A5A5A5A) ∧
    decode (acc1 .timer 0x1024) = .ok (.timerRawhW .core1 0x5A5A5A5A) ∧
    decode (acc1 .timer 0x1028) = .ok (.timerRawlW .core1 0x5A5A5A5A) ∧
    decode (acc1 .timer 0x1030) = .ok (.timerPauseW .core1 0x5A5A5A5A) ∧
    decode (acc1 .timer 0x1034) = .ok (.timerIntrW .core1 0x5A5A5A5A) ∧
    decode (acc1 .timer 0x1038) = .ok (.timerInteW .core1 0x5A5A5A5A) ∧
    decode (acc1 .timer 0x1040) = .ok (.timerIntsW .core1 0x5A5A5A5A) ∧
    decode (acc1 .timer 0x1014) = .ok (.timerAlarmW .core1 1 0x5A5A5A5A) := by decide

theorem test_decode_reserved :
    decode (acc1 (.uart 1) 0x0008) = .ok (.uartReserved .core1 1 .read 0x008 0) ∧
    decode (acc1 (.uart 1) 0x1FE0) = .ok (.uartReserved .core1 1 .write 0xFE0 0x5A5A5A5A) ∧
    decode (acc1 .gpio 0x0110) = .ok (.gpioReserved .core1 .read 0x110 0) ∧
    decode (acc1 .gpio 0x1140) = .ok (.gpioReserved .core1 .write 0x140 0x5A5A5A5A) ∧
    decode (acc1 .gpio 0x0160) = .ok (.gpioReserved .core1 .read 0x160 0) ∧
    decode (acc1 .timer 0x002C) = .ok (.timerReserved .core1 .read 0x02C 0) ∧
    decode (acc1 .timer 0x103C) = .ok (.timerReserved .core1 .write 0x03C 0x5A5A5A5A) ∧
    decode (acc1 .timer 0x0044) = .ok (.timerReserved .core1 .read 0x044 0) := by decide

theorem test_decode_events :
    decode (.evt { Evt.zeros with code := 0x1, u := 1, bytes := [0x31, 0x32] }) = .ok (.uartRx 1 [0x31, 0x32]) ∧
    decode (.evt { Evt.zeros with code := 0x2, u := 1 }) = .ok (.uartCapacity 1) ∧
    decode (.evt { Evt.zeros with code := 0x3, pin := 29, lvl := 1 }) = .ok (.gpioReport 29 true) ∧
    decode (.evt { Evt.zeros with code := 0x4, t := 1040 }) = .ok (.clockAdvance 1040) ∧
    decode (.evt { Evt.zeros with code := 0x5 }) = .ok .hostReset ∧
    decode (.evt { Evt.zeros with code := 0x6 }) = .ok .hostSnapshot := by decide

/-- A host's record with UART 0's length 2 and alarm 1 armed at 800. -/
def rawSnap : RawSnapshot :=
  { RawSnapshot.zeros 2 with
    uarts := [{ RawUart.zeros with fifoLen := 2, fifoWr := 2, cr := 0x301 }, RawUart.zeros], target := [0, 800, 0, 0], armed := 2, counter := 500 }

theorem test_decode_restore :
    (match decode (.evt { Evt.zeros with code := 0x7, snap := rawSnap }) with
      | .ok (.hostRestore snap) =>
        decide (snap.counter = 500 ∧ snap.armed = 2 ∧ snap.target[1] = 800 ∧ snap.uarts.map Uart.cr = [0x301, 0] ∧
          snap.uarts.map Uart.fifoLen = [2, 0])
      | _ => false) = true := by decide

theorem test_decode_refusals :
    decode (.txn ⟨0, 0, 0b11, 0, 0⟩) = .error .illegalWidth ∧ decode (.txn ⟨1, 1, 0b11, 0, 0⟩) = .error .illegalWidth ∧
    decode (.evt { Evt.zeros with code := 0x0 }) = .error .illegalEventCode ∧
    decode (.evt { Evt.zeros with code := 0x8 }) = .error .illegalEventCode ∧
    decode (.evt { Evt.zeros with code := 0xF }) = .error .illegalEventCode ∧
    decode (.evt { Evt.zeros with code := 0x3, pin := 30 }) = .error .pinOutOfRange ∧
    decode (.evt { Evt.zeros with code := 0x1, bytes := [] }) = .error .emptyDelivery := by decide

theorem test_decode_restore_refusals :
    decode (.evt { Evt.zeros with code := 0x7, snap := { rawSnap with armed := 16 } }) = .error .snapshotMisfit ∧
    decode (.evt { Evt.zeros with code := 0x7, snap := { rawSnap with level := [] } }) = .error .snapshotMisfit ∧
    decode (.evt { Evt.zeros with code := 0x7, snap := { rawSnap with gpioIntr := [0, 0, 0, 0x01000000] } }) = .error .snapshotMisfit ∧
    decode (.evt { Evt.zeros with code := 0x7, snap := { rawSnap with uarts := [{ RawUart.zeros with fifoLen := 33 }, RawUart.zeros] } })
      = .error .snapshotMisfit := by decide

theorem test_table_words :
    decodeTableWord 8 0b010 = some (.uartCapacity 0) ∧ decodeTableWord 8 0b110 = some .hostSnapshot ∧
    decodeTableWord 8 0b000 = some (.busR8 .core0 0) ∧ decodeTableWord 16 0x1048 = some (.uartDmacrW .core0 0 0) ∧
    decodeTableWord 16 0x0010 = some (.timerAlarmR .core0 0) ∧ decodeTableWord 16 0x1150 = some (.gpioP1intsW .core0 0 0) := by decide

/-! One step, with the results of 95_test_vectors.md (named in each docstring). -/

/-- The operation answers a next state the test accepts. -/
def after (s : State) (i : Instr) (p : State → Bool) : Bool :=
  match exec i s with
  | .next t => p t
  | .refused _ => false

/-- A read's result. -/
def gives (s : State) (i : Instr) (v : Word) : Bool := after s i fun t => t.reply == .value .core0 v

/-- UART 0 with its fields changed. -/
def uart0 (f : Uart → Uart) : State := { State.reset with uarts := [f Uart.reset, Uart.reset] }

/-- UART 0 with UARTCR = 0x301. -/
def open0 : State := uart0 fun U => { U with cr := 0x301 }

/-- The GPIO with its fields changed. -/
def gpioWith (f : Gpio → Gpio) : State := State.reset.setGpio (f Gpio.reset)

/-- Reset at clock 1000 and the counter at `n`, with the timer's fields changed. -/
def timerAt (n : Time) (f : Timer → Timer) : State := { State.reset with clockNow := 1000 + n, timer := f (Timer.reset 1000) }

/-- The state with bytes in SRAM. -/
def sramWith (m : Memory) : State := State.reset.setSram m

/-- A field of UART 0 after a step. -/
def uart0Is {α : Type} [DecidableEq α] (f : Uart → α) (x : α) (t : State) : Bool := (t.uarts.head?.map f) == some x

/-- Vector B1. -/
theorem test_busW32_bytes : after State.reset (.busW32 .core0 0x20000000 0x11223344)
    (fun t => t.sram == [(0, 0x44), (1, 0x33), (2, 0x22), (3, 0x11)] && t.reply == .written .core0) = true := by decide

/-- Vectors B2, B3, B6. -/
theorem test_bus_reads : gives (sramWith [(0, 0x44), (1, 0x33), (2, 0x22), (3, 0x11)]) (.busR8 .core0 0x20000003) 0x11 = true ∧
    gives (sramWith [(0, 0x44), (1, 0x33), (2, 0x22), (3, 0x11)]) (.busR16 .core0 0x20000002) 0x1122 = true ∧
    gives (sramWith [(0, 0x44), (1, 0x33), (2, 0xEF), (3, 0xBE)]) (.busR32 .core0 0x20000000) 0xBEEF3344 = true := by decide

/-- Vectors B4, B7, B8, B11, B13, B14, B16, B17. -/
theorem test_bus_read_errors :
    after State.reset (.busR16 .core0 0x20000001) (fun t => t.diag == [⟨.misaligned, .core0, .read, 0x20000001, .half, 0⟩]) = true ∧
    after State.reset (.busR32 .core0 0x30000000) (fun t => t.diag == [⟨.unmapped, .core0, .read, 0x30000000, .word, 0⟩]) = true ∧
    after State.reset (.busR32 .core0 0x30000002) (fun t => t.diag == [⟨.misaligned, .core0, .read, 0x30000002, .word, 0⟩]) = true ∧
    after State.reset (.busR8 .core0 0x40034018) (fun t => t.diag == [⟨.badWidth, .core0, .read, 0x40034018, .byte, 0⟩]) = true ∧
    after State.reset (.busR32 .core0 0x50200000) (fun t => t.diag == [⟨.stub, .core0, .read, 0x50200000, .word, 0⟩]) = true ∧
    after State.reset (.busR32 .core0 0x40035000) (fun t => t.diag == [⟨.unmapped, .core0, .read, 0x40035000, .word, 0⟩]) = true ∧
    after State.reset (.busR32 .core0 0x40034001) (fun t => t.diag == [⟨.misaligned, .core0, .read, 0x40034001, .word, 0⟩]) = true ∧
    after State.reset (.busR32 .core1 0x30000000)
      (fun t => t.diag == [⟨.unmapped, .core1, .read, 0x30000000, .word, 0⟩] && t.reply == .value .core1 0) = true := by decide

/-- Vectors B5, B6. -/
theorem test_narrow_writes :
    after (sramWith [(0, 0x44), (1, 0x33), (2, 0x22), (3, 0x11)]) (.busW8 .core0 0x20000001 0x1AB)
      (fun t => t.sram == [(0, 0x44), (1, 0xAB), (2, 0x22), (3, 0x11)]) = true ∧
    after (sramWith [(0, 0x44), (1, 0x33), (2, 0x22), (3, 0x11)]) (.busW16 .core0 0x20000002 0xBEEF)
      (fun t => t.sram == [(0, 0x44), (1, 0x33), (2, 0xEF), (3, 0xBE)]) = true := by decide

/-- Vectors B9, B10, B12. -/
theorem test_bus_write_errors :
    after State.reset (.busW32 .core0 0 5) (fun t => t.diag == [⟨.readOnlyRegion, .core0, .write, 0, .word, 5⟩] && t.sram == []) = true ∧
    after State.reset (.busW8 .core0 0x10000000 1) (fun t => t.diag == [⟨.readOnlyRegion, .core0, .write, 0x10000000, .byte, 1⟩]) = true ∧
    after open0 (.busW8 .core0 0x40034000 0x41)
      (fun t => t.diag == [⟨.badWidth, .core0, .write, 0x40034000, .byte, 0x41⟩] && t.txLog == [[], []]) = true := by decide

/-- Vector B15: the last half-word of SRAM. -/
theorem test_busW16_last : after State.reset (.busW16 .core0 0x20041FFE 0xBEEF)
    (fun t => t.sram == [(0x41FFE, 0xEF), (0x41FFF, 0xBE)]) = true := by decide

/-- Scenario S6, step 3, over the bus. -/
theorem test_bus_reaches_uart : after open0 (.busW32 .core0 0x40034000 0x41)
    (fun t => t.txLog == [[0x41], []] && uart0Is Uart.ris 0x020 t && t.diag == []) = true := by decide

/-- Vectors U4, U5. -/
theorem test_uart_send : after open0 (.uartDrW .core0 0 0x12345641)
      (fun t => t.txLog == [[0x41], []] && uart0Is Uart.ris 0x020 t) = true ∧
    after (uart0 fun U => { U with cr := 0x101 }) (.uartDrW .core0 0 0x41) (fun t => t.txLog == [[0x41], []]) = true := by decide

/-- Vectors U2, U3. -/
theorem test_uart_send_disabled :
    after State.reset (.uartDrW .core0 0 0x41) (fun t => t.txLog == [[], []] && uart0Is Uart.ris 0 t) = true ∧
    after (uart0 fun U => { U with cr := 0x001 }) (.uartDrW .core0 0 0x41)
      (fun t => t.txLog == [[], []] && uart0Is Uart.ris 0 t) = true := by decide

/-- Vector U8, and S1 with the read cursor at the end of the buffer. -/
theorem test_uart_pop :
    after (uart0 fun U => { U with cr := 0x301, fifoBuf := U.fifoBuf.set 0 0x55, fifoWr := 1, fifoLen := 1, ris := 0x010 })
      (.uartDrR .core0 0) (fun t => t.reply == .value .core0 0x55 && uart0Is Uart.ris 0 t && uart0Is Uart.fifoLen 0 t) = true ∧
    after (uart0 fun U => { U with fifoBuf := U.fifoBuf.set 31 0x55, fifoRd := 31, fifoWr := 1, fifoLen := 2, ris := 0x010 })
      (.uartDrR .core0 0) (fun t => t.reply == .value .core0 0x55 && uart0Is Uart.ris 0x010 t && uart0Is Uart.fifoRd 0 t) = true := by
  decide

/-- Vector U9: whatever the value, the UART does not change. -/
theorem test_uart_read_empty : after open0 (.uartDrR .core0 0) (fun t => t.uarts == open0.uarts && t.draws == 1) = true := by decide

/-- Vectors U6, U7. -/
theorem test_uart_receive :
    after State.reset (.uartRx 0 [0x55]) (fun t => uart0Is Uart.fifoLen 0 t && uart0Is Uart.ris 0 t) = true ∧
    after open0 (.uartRx 0 [0x55]) (fun t => uart0Is Uart.held [0x55] t && uart0Is Uart.ris 0x010 t && uart0Is Uart.flagWord 0x80 t)
      = true := by decide

/-- Vectors U11, U27. -/
theorem test_uart_receive_edges :
    after (uart0 fun U => { U with cr := 0x301, fifoLen := 32, ris := 0x010 }) (.uartRx 0 [0xFF])
      (fun t => uart0Is Uart.fifoLen 32 t && uart0Is Uart.ris 0x410 t && uart0Is Uart.fifoBuf Uart.reset.fifoBuf t) = true ∧
    after (uart0 fun U => { U with cr := 0x301, fifoRd := 31, fifoWr := 31 }) (.uartRx 0 [0xA0, 0xA1])
      (fun t => uart0Is Uart.fifoWr 1 t && uart0Is Uart.held [0xA0, 0xA1] t) = true := by decide

/-- Vectors U16, U17. -/
theorem test_uart_capacity :
    after State.reset (.uartCapacity 0) (fun t => t.reply == .capacity 32) = true ∧
    after (uart0 fun U => { U with fifoLen := 30 }) (.uartCapacity 0) (fun t => t.reply == .capacity 2) = true := by decide

/-- Vector U1. -/
theorem test_uart_reset_reads :
    gives State.reset (.uartFrR .core0 0) 0x90 = true ∧ gives State.reset (.uartCrR .core0 0) 0x300 = true ∧
    gives State.reset (.uartIflsR .core0 0) 0x12 = true ∧ gives State.reset (.uartImscR .core0 0) 0 = true ∧
    gives State.reset (.uartRisR .core0 0) 0 = true ∧ gives State.reset (.uartMisR .core0 0) 0 = true ∧
    gives State.reset (.uartRsrR .core0 0) 0 = true ∧ gives State.reset (.uartIcrR .core0 0) 0 = true ∧
    gives State.reset (.uartDmacrR .core0 0) 0 = true ∧ gives State.reset (.uartIbrdR .core0 0) 0 = true ∧
    gives State.reset (.uartFbrdR .core0 0) 0 = true ∧ gives State.reset (.uartLcrhR .core0 0) 0 = true ∧
    gives State.reset (.uartIlprR .core0 0) 0 = true := by decide

/-- S2 at length 32, U24, U26 and S6 steps 4 and 5. -/
theorem test_uart_reads :
    gives (uart0 fun U => { U with fifoLen := 32 }) (.uartFrR .core0 0) 0xC0 = true ∧
    gives (uart0 fun U => { U with ris := 0x410 }) (.uartRsrR .core0 0) 0 = true ∧
    gives (uart0 fun U => { U with ris := 0x020 }) (.uartIcrR .core0 0) 0 = true ∧
    gives (uart0 fun U => { U with ris := 0x430 }) (.uartRisR .core0 0) 0x430 = true ∧
    gives (uart0 fun U => { U with ris := 0x430, imsc := 0x020 }) (.uartMisR .core0 0) 0x020 = true := by decide

/-- Vectors U18, U19, U20: what each register stores. -/
theorem test_uart_stores :
    after State.reset (.uartImscW .core0 0 0xFFFFFFFF) (uart0Is Uart.imsc 0x7FF) = true ∧
    after State.reset (.uartCrW .core0 0 0xFFFFFFFF) (uart0Is Uart.cr 0xFF87) = true ∧
    after State.reset (.uartIbrdW .core0 0 0x12345) (uart0Is Uart.ibrd 0x2345) = true ∧
    after State.reset (.uartFbrdW .core0 0 0xFF) (uart0Is Uart.fbrd 0x3F) = true ∧
    after State.reset (.uartLcrhW .core0 0 0x1FF) (uart0Is Uart.lcrH 0xFF) = true ∧
    after State.reset (.uartIflsW .core0 0 0xFF) (uart0Is Uart.ifls 0x3F) = true ∧
    after State.reset (.uartDmacrW .core0 0 0xF) (uart0Is Uart.dmacr 0x7) = true ∧
    after State.reset (.uartIlprW .core0 0 0x1FF) (uart0Is Uart.ilpr 0xFF) = true := by decide

/-- U20, the read half, with a different value in each register. -/
theorem test_uart_stored_reads :
    gives (uart0 fun U => { U with ibrd := 0x2345 }) (.uartIbrdR .core0 0) 0x2345 = true ∧
    gives (uart0 fun U => { U with fbrd := 0x3E }) (.uartFbrdR .core0 0) 0x3E = true ∧
    gives (uart0 fun U => { U with lcrH := 0xFD }) (.uartLcrhR .core0 0) 0xFD = true ∧
    gives (uart0 fun U => { U with ilpr := 0xFB }) (.uartIlprR .core0 0) 0xFB = true ∧
    gives (uart0 fun U => { U with dmacr := 0x5 }) (.uartDmacrR .core0 0) 0x5 = true := by decide

/-- The example of S9 for the clear register. -/
theorem test_uart_clear : after (uart0 fun U => { U with ris := 0x430 }) (.uartIcrW .core0 0 0x020) (uart0Is Uart.ris 0x410) = true := by
  decide

/-- Vectors U22, U24: ignored writes leave no record. -/
theorem test_uart_ignored_writes :
    after (uart0 fun U => { U with ris := 0x020 }) (.uartRisW .core0 0 0) (fun t => uart0Is Uart.ris 0x020 t && t.diag == []) = true ∧
    after (uart0 fun U => { U with ris := 0x020 }) (.uartMisW .core0 0 0) (fun t => uart0Is Uart.ris 0x020 t && t.diag == []) = true ∧
    after (uart0 fun U => { U with ris := 0x020 }) (.uartFrW .core0 0 0) (fun t => uart0Is Uart.ris 0x020 t && t.diag == []) = true ∧
    after (uart0 fun U => { U with ris := 0x410 }) (.uartEcrW .core0 0 0xFFFFFFFF)
      (fun t => uart0Is Uart.ris 0x410 t && t.diag == []) = true := by decide

/-- Vectors U25, G17, T23. -/
theorem test_reserved :
    after State.reset (.uartReserved .core0 0 .read 0x008 0)
      (fun t => t.diag == [⟨.reserved, .core0, .read, 0x40034008, .word, 0⟩] && t.reply == .value .core0 0) = true ∧
    after State.reset (.gpioReserved .core0 .write 0x140 1)
      (fun t => t.diag == [⟨.reserved, .core0, .write, 0x40014140, .word, 1⟩] && t.reply == .written .core0) = true ∧
    after State.reset (.timerReserved .core0 .write 0x03C 1)
      (fun t => t.diag == [⟨.reserved, .core0, .write, 0x4005403C, .word, 1⟩]) = true := by decide

/-- Vector U28: the second UART alone. -/
theorem test_uart1_send : after { State.reset with uarts := [Uart.reset, { Uart.reset with cr := 0x301 }] } (.uartDrW .core0 1 0x42)
    (fun t => t.txLog == [[], [0x42]] && uart0Is id Uart.reset t) = true := by decide

/-- Vector G1. -/
theorem test_gpio_reset_reads :
    gives State.reset (.gpioCtrlR .core0 29) 0x1F = true ∧ gives State.reset (.gpioStatusR .core0 0) 0 = true ∧
    gives State.reset (.gpioIntrR .core0 0) 0 = true ∧ gives State.reset (.gpioP0inteR .core0 0) 0 = true ∧
    gives State.reset (.gpioP1inteR .core0 3) 0 = true := by decide

/-- Pin 0 in SIO with its four conditions enabled for core 0. -/
def pin0 (lvl : Bool) (intr : Word) : State :=
  gpioWith fun g => { g with funcsel := g.funcsel.set 0 5, inte0 := g.inte0.set 0 0xF, level := g.level.set 0 lvl, intr := g.intr.set 0 intr }

/-- Vectors G2, G3, G4. -/
theorem test_gpio_report :
    after (pin0 false 0) (.gpioReport 0 true) (fun t => t.gpio.intr[0] == 0xA) = true ∧
    after (pin0 true 0) (.gpioReport 0 true) (fun t => t.gpio.intr[0] == 0x2) = true ∧
    after (pin0 true 0x2) (.gpioReport 0 false) (fun t => t.gpio.intr[0] == 0x7 && t.gpio.level[0] == false) = true := by decide

/-- Vectors G5, G7. -/
theorem test_gpio_report_gated :
    after (gpioWith fun g => { g with inte0 := g.inte0.set 0 0xF0 }) (.gpioReport 1 true)
      (fun t => t.gpio.intr[0] == 0 && t.gpio.level[1] == true) = true ∧
    after (gpioWith fun g => { g with funcsel := g.funcsel.set 29 5, inte1 := g.inte1.set 3 0x00800000 }) (.gpioReport 29 true)
      (fun t => t.gpio.intr[3] == 0x00800000 && t.gpioIrq .core1 && !t.gpioIrq .core0) = true := by decide

/-- G5's read, G10's reads, and the enables read apart. -/
theorem test_gpio_reads :
    gives (gpioWith fun g => { g with level := g.level.set 1 true }) (.gpioStatusR .core0 1) 0x00020000 = true ∧
    gives (gpioWith fun g => { g with intr := g.intr.set 0 0xC00, inte0 := g.inte0.set 0 0x800 }) (.gpioP0intsR .core0 0) 0x800 = true ∧
    gives (gpioWith fun g => { g with intr := g.intr.set 0 0xC00, inte1 := g.inte1.set 0 0x400 }) (.gpioP1intsR .core0 0) 0x400 = true ∧
    gives (gpioWith fun g => { g with inte0 := g.inte0.set 1 7 }) (.gpioP0inteR .core0 1) 7 = true ∧
    gives (gpioWith fun g => { g with inte1 := g.inte1.set 1 7 }) (.gpioP1inteR .core0 1) 7 = true ∧
    gives (gpioWith fun g => { g with intr := g.intr.set 2 9 }) (.gpioIntrR .core0 2) 9 = true := by decide

/-- Vectors G8, G11, G14. -/
theorem test_gpio_writes :
    after State.reset (.gpioP0inteW .core0 3 0xFFFFFFFF) (fun t => t.gpio.inte0[3] == 0x00FFFFFF && t.gpio.inte1[3] == 0) = true ∧
    after State.reset (.gpioP1inteW .core0 3 0xFFFFFFFF) (fun t => t.gpio.inte1[3] == 0x00FFFFFF && t.gpio.inte0[3] == 0) = true ∧
    after (gpioWith fun g => { g with intr := g.intr.set 0 0xC00 }) (.gpioIntrW .core0 0 0x800) (fun t => t.gpio.intr[0] == 0x400) = true ∧
    after State.reset (.gpioCtrlW .core0 5 0xFFFFFFE5) (fun t => t.gpio.funcsel[5] == 5) = true := by decide

/-- Vector G16. -/
theorem test_gpio_ignored_writes :
    after (pin0 true 3) (.gpioStatusW .core0 0 0) (fun t => t.gpio == (pin0 true 3).gpio && t.diag == []) = true ∧
    after (pin0 true 3) (.gpioP0intsW .core0 0 0xFFFFFFFF) (fun t => t.gpio == (pin0 true 3).gpio && t.diag == []) = true ∧
    after (pin0 true 3) (.gpioP1intsW .core0 0 0xFFFFFFFF) (fun t => t.gpio == (pin0 true 3).gpio && t.diag == []) = true := by decide

/-- Vectors T3, S8 step 3: the latch is read, not the counter. -/
theorem test_timer_latch :
    after (timerAt 0x100000005 id) (.timerTimehrR .core0) (fun t => t.reply == .value .core0 1 && t.timer.latch[0] == 0x100000005) = true ∧
    gives (timerAt 0x100 fun T => { T with latch := T.latch.set 0 0x100000005 }) (.timerTimelrR .core0) 5 = true := by decide

/-- Vectors T24, T25: core 1 latches the one latch, or its own. -/
theorem test_timer_latch_scope :
    after (timerAt 7 id) (.timerTimehrR .core1) (fun t => t.timer.latch[0] == 7 && t.timer.latch[1] == 0) = true ∧
    after { timerAt 7 id with cfg := { Config.default with latchScope := .perCore } } (.timerTimehrR .core1)
      (fun t => t.timer.latch[0] == 0 && t.timer.latch[1] == 7) = true := by decide

/-- Vectors T1, T2, T4, T7, T19, T20. -/
theorem test_timer_reads :
    gives (timerAt 500 id) (.timerRawlR .core0) 500 = true ∧ gives (timerAt 0x300000005 id) (.timerRawhR .core0) 3 = true ∧
    gives (timerAt 100 fun T => { T with target := T.target.set 0 0x500000096 }) (.timerAlarmR .core0 0) 150 = true ∧
    gives (timerAt 0 fun T => { T with armed := 0b0011 }) (.timerArmedR .core0) 3 = true ∧
    gives (timerAt 0 fun T => { T with paused := true }) (.timerPauseR .core0) 1 = true ∧
    gives (timerAt 0 fun T => { T with intr := 0b0011, inte := 0b0010 }) (.timerIntsR .core0) 2 = true ∧
    gives (timerAt 0 fun T => { T with intr := 0b0011, inte := 0b0010 }) (.timerIntrR .core0) 3 = true ∧
    gives (timerAt 0 fun T => { T with intr := 0b0011, inte := 0b0010 }) (.timerInteR .core0) 2 = true ∧
    gives (timerAt 0x500000005 id) (.timerTimehwR .core0) 0 = true ∧ gives (timerAt 0x500000005 id) (.timerTimelwR .core0) 0 = true := by
  decide

/-- T4, and the rebase example of S9. -/
theorem test_timer_rebase :
    after (timerAt 0x100000000 id) (.timerTimelwW .core0 0x20) (fun t => t.counter == 0x20) = true ∧
    after (timerAt 100 fun T => { T with armed := 1, target := T.target.set 0 500 }) (.timerTimelwW .core0 600)
      (fun t => t.timer.armed == 0 && t.timer.intr == 1 && t.counter == 600) = true := by decide

/-- T15: a rebase while paused. -/
theorem test_timer_rebase_paused :
    after (timerAt 207 fun T => { T with paused := true, frozen := 200 }) (.timerTimelwW .core0 50)
      (fun t => t.counter == 50 && t.timer.paused && t.timer.base == 1000) = true := by decide

/-- S5 (a target equal to the counter) and T9. -/
theorem test_timer_alarm_fires :
    after (timerAt 500 fun T => { T with paused := true, frozen := 100 }) (.timerAlarmW .core0 1 100)
      (fun t => t.timer.armed == 0 && t.timer.intr == 2) = true ∧
    after (timerAt 0xFFFFFFF0 id) (.timerAlarmW .core0 0 0x10)
      (fun t => t.timer.armed == 0 && t.timer.intr == 1 && t.timer.target[0] == 0x10) = true := by decide

/-- T5, T13: armed and not fired; the target takes the counter's high word. -/
theorem test_timer_alarm_arms :
    after (timerAt 100 id) (.timerAlarmW .core0 0 150) (fun t => t.timer.armed == 1 && t.timer.intr == 0 && t.timer.target[0] == 150) = true ∧
    after (timerAt 0x700000064 id) (.timerAlarmW .core0 3 0x96) (fun t => t.timer.armed == 8 && t.timer.target[3] == 0x700000096) = true := by
  decide

/-- T26, T7, T19. -/
theorem test_timer_writes :
    after (timerAt 0 fun T => { T with armed := 3, intr := 3 }) (.timerArmedW .core0 1) (fun t => t.timer.armed == 2 && t.timer.intr == 3)
      = true ∧
    after (timerAt 0 fun T => { T with armed := 3, intr := 3 }) (.timerIntrW .core0 1) (fun t => t.timer.intr == 2 && t.timer.armed == 3)
      = true ∧
    after (timerAt 0 id) (.timerInteW .core0 0xFF) (fun t => t.timer.inte == 0xF) = true := by decide

/-- T11, T12: pause freezes the counter, resume goes on from it. -/
theorem test_timer_pause :
    after (timerAt 200 id) (.timerPauseW .core0 3) (fun t => t.timer.paused && t.timer.frozen == 200) = true ∧
    after (timerAt 1200 fun T => { T with paused := true, frozen := 200 }) (.timerPauseW .core0 0)
      (fun t => !t.timer.paused && t.timer.base == 2000 && t.counter == 200) = true := by decide

/-- T22 and the read-only registers. -/
theorem test_timer_ignored_writes :
    after (timerAt 5 id) (.timerTimehwW .core0 1) (fun t => t.timer == (timerAt 5 id).timer && t.diag == []) = true ∧
    after (timerAt 5 id) (.timerTimehrW .core0 1) (fun t => t.timer == (timerAt 5 id).timer && t.diag == []) = true ∧
    after (timerAt 5 id) (.timerTimelrW .core0 1) (fun t => t.timer == (timerAt 5 id).timer && t.diag == []) = true ∧
    after (timerAt 5 id) (.timerRawhW .core0 1) (fun t => t.timer == (timerAt 5 id).timer && t.diag == []) = true ∧
    after (timerAt 5 id) (.timerRawlW .core0 1) (fun t => t.timer == (timerAt 5 id).timer && t.diag == []) = true ∧
    after (timerAt 5 id) (.timerIntsW .core0 1) (fun t => t.timer == (timerAt 5 id).timer && t.diag == []) = true := by decide

/-- T6, T18. -/
theorem test_clock_fires :
    after (timerAt 149 fun T => { T with armed := 1, inte := 1, target := T.target.set 0 150 }) (.clockAdvance 1150)
      (fun t => t.timer.armed == 0 && t.timer.intr == 1 && t.timerIrq 0 && t.clockNow == 1150) = true ∧
    after (timerAt 100 fun T => { T with armed := 3, target := (T.target.set 0 110).set 1 120 }) (.clockAdvance 1150)
      (fun t => t.timer.armed == 0 && t.timer.intr == 3) = true := by decide

/-- T5 (one short of the target), T13 (paused), and the refusal of a clock that moves back. -/
theorem test_clock_does_not_fire :
    after (timerAt 100 fun T => { T with armed := 1, target := T.target.set 0 150 }) (.clockAdvance 1149)
      (fun t => t.timer.armed == 1 && t.timer.intr == 0 && t.counter == 149) = true ∧
    after (timerAt 200 fun T => { T with paused := true, frozen := 200, armed := 1, target := T.target.set 0 205 }) (.clockAdvance 2200)
      (fun t => t.timer.armed == 1 && t.counter == 200) = true ∧
    after (timerAt 1 id) (.clockAdvance 1000) (fun _ => true) = false := by decide

/-- Vector H1. -/
theorem test_reset :
    after { timerAt 12345 (fun T => { T with armed := 1 }) with
        uarts := [{ Uart.reset with cr := 0x301, fifoLen := 1, fifoWr := 1 }, Uart.reset], txLog := [[0x48], []],
        diag := [⟨.stub, .core0, .read, 0x50200000, .word, 0⟩] } .hostReset
      (fun t => t.counter == 0 && t.clockNow == 13345 && t.timer.armed == 0 && t.uarts == [Uart.reset, Uart.reset] &&
        t.txLog == [[0x48], []] && t.diag.length == 1) = true := by decide

/-- Vector H2. -/
theorem test_snapshot :
    after { State.reset with clockNow := 9500, timer := Timer.reset 9000 } .hostSnapshot
      (fun t => match t.reply with | .snapshot snap => snap.counter == 500 | _ => false) = true := by decide

/-- Vectors H3, H4. -/
theorem test_restore :
    after { State.reset with clockNow := 20000 } (.hostRestore { snapWith id id with counter := 500, armed := 2, target := #v[0, 800, 0, 0] })
      (fun t => t.timer.base == 19500 && t.counter == 500 && t.timer.armed == 2 && t.timer.intr == 0) = true ∧
    after { State.reset with clockNow := 20000 } (.hostRestore { snapWith id id with counter := 500, armed := 4, target := #v[0, 0, 400, 0] })
      (fun t => t.timer.armed == 0 && t.timer.intr == 4) = true := by decide

/-- Vector H5, and a record for another number of UARTs. -/
theorem test_restore_paused :
    after { State.reset with clockNow := 20000 } (.hostRestore { snapWith id id with counter := 77, paused := true })
      (fun t => t.counter == 77 && t.timer.paused && t.timer.frozen == 77) = true ∧
    after State.reset (.hostRestore { snapWith id id with uarts := [Uart.reset] }) (fun _ => true) = false := by decide

/-- A fetch of a table word runs its operation. -/
theorem test_withFetchWord :
    (match step (State.reset.withFetchWord 16 0x0018) with
      | .next t => t.reply == .value .core0 0x90 && t.pending == []
      | .refused _ => false) = true := by decide

/-- P1, statements 3 and 4 of the script notation: PUTC issues a write of UARTDR. -/
theorem test_script_putc :
    ((Harness.start open0).stepScript (putc .default 0 0x48)).machine.txLog = [[0x48], []] := by decide

/-! For each statement with hypotheses, states and operands that meet them; where a statement has several clauses, one for each at the
edge of its range. -/

/-- The reset state with one operation issued. -/
def queued (op : RawOp) : State := State.reset.setPending [op]

theorem witness_StepRunsDecodedOperation :
    ((queued (.evt { Evt.zeros with code := 0x5 })).pending = .evt { Evt.zeros with code := 0x5 } :: [] ∧
      decode (.evt { Evt.zeros with code := 0x5 }) = .ok .hostReset) ∧
    ((queued (.evt { Evt.zeros with code := 0x0 })).pending = .evt { Evt.zeros with code := 0x0 } :: [] ∧
      decode (.evt { Evt.zeros with code := 0x0 }) = .error .illegalEventCode) ∧
    State.reset.pending = [] := by decide

theorem witness_DecodeOfEncodeIsIdentity :
    (Instr.uartReserved .core1 1 .write 0x04C 1).wellFormed = true ∧ (Instr.gpioReserved .core0 .read 0x15D 0).wellFormed = true ∧
    (Instr.timerReserved .core0 .write 0x044 5).wellFormed = true ∧ (Instr.gpioCtrlW .core0 29 5).wellFormed = true ∧
    (Instr.uartRx 0 [0]).wellFormed = true ∧
    (Instr.hostRestore (snapWith (fun U => { U with fifoLen := 32 }) fun g => { g with intr := g.intr.set 3 0x00FFFFFF })).wellFormed = true := by
  decide

theorem witness_DecodedOperationsAreWellFormed :
    decode (acc1 (.uart 1) 0x1FE0) = .ok (.uartReserved .core1 1 .write 0xFE0 0x5A5A5A5A) ∧
    decode (.evt { Evt.zeros with code := 0x1 }) = .ok (.uartRx 0 [0]) := by decide

theorem witness_IllegalInputsAreRefused :
    (⟨0, 1, 0b11, 0, 0⟩ : Txn).wcode = 0b11 ∧ (Evt.zeros.code = 0 ∧ (8 : BitVec 4) ≤ { Evt.zeros with code := 8 }.code) ∧
    ({ Evt.zeros with code := 0x3, pin := 30 }.code = 0x3 ∧ 29 < { Evt.zeros with code := 0x3, pin := 30 }.pin) ∧
    ({ Evt.zeros with code := 0x1, bytes := [] }.code = 0x1 ∧ { Evt.zeros with code := 0x1, bytes := [] }.bytes = []) ∧
    (999 : Time) < (timerAt 0 id).clockNow ∧
    (State.reset.uarts.length = State.reset.cfg.uartCount ∧ State.reset.cfg.uartCount ≤ 2) := by decide

theorem witness_UartDivisorAndLineRegisters : State.reset.uarts[1]? = some Uart.reset := by decide

theorem witness_UartControlAndMaskRegisters : State.reset.uarts[0]? = some Uart.reset := by decide

theorem witness_UartInterruptRegisters :
    (uart0 fun U => { U with ris := 0x430, imsc := 0x400 }).uarts[0]? = some { Uart.reset with ris := 0x430, imsc := 0x400 } := by decide

theorem witness_UartStatusAndFlagRegisters :
    (uart0 fun U => { U with fifoLen := 32 }).uarts[0]? = some { Uart.reset with fifoLen := 32 } := by decide

theorem witness_UartDataReadPopsOrDraws :
    ((uart0 fun U => { U with fifoLen := 1 }).uarts[0]? = some { Uart.reset with fifoLen := 1 } ∧ 0 < { Uart.reset with fifoLen := 1 }.fifoLen) ∧
    (State.reset.uarts[0]? = some Uart.reset ∧ Uart.reset.fifoLen = 0) := by decide

theorem witness_UartDataWriteSendsWhenEnabled :
    (open0.uarts[0]? = some { Uart.reset with cr := 0x301 } ∧ open0.txLog[0]? = some []) ∧
    (State.reset.uarts[1]? = some Uart.reset ∧ State.reset.txLog[1]? = some []) := by decide

theorem witness_UartDeliveryRunsByteByByte : open0.uarts[0]? = some { Uart.reset with cr := 0x301 } := by decide

/-- UART 0 open and full. -/
def full0 : Uart := { Uart.reset with cr := 0x301, fifoLen := 32 }

theorem witness_DeliveryAppendsUpToCapacity :
    (open0.uarts[0]? = some { Uart.reset with cr := 0x301 } ∧ { Uart.reset with cr := 0x301 }.rxEnabled = true ∧
      { Uart.reset with cr := 0x301 }.fifoLen ≤ 32 ∧ { Uart.reset with cr := 0x301 }.cursorsAgree ∧ [(0x55 : Byte)] ≠ []) ∧
    ((uart0 fun _ => full0).uarts[0]? = some full0 ∧ full0.rxEnabled = true ∧ full0.fifoLen ≤ 32 ∧ full0.cursorsAgree) := by decide

theorem witness_DataReadTakesTheOldestByte :
    (uart0 fun U => { U with fifoBuf := U.fifoBuf.set 0 0x41, fifoLen := 2 }).uarts[0]? =
      some { Uart.reset with fifoBuf := Uart.reset.fifoBuf.set 0 0x41, fifoLen := 2 } ∧
    { Uart.reset with fifoBuf := Uart.reset.fifoBuf.set 0 0x41, fifoLen := 2 }.held = 0x41 :: [0x00] := by decide

theorem witness_FifoReturnsBytesInOrder :
    (uart0 fun U => { U with cr := 0x301, fifoRd := 20, fifoWr := 20 }).uarts[0]? =
      some { Uart.reset with cr := 0x301, fifoRd := 20, fifoWr := 20 } ∧
    { Uart.reset with cr := 0x301, fifoRd := 20, fifoWr := 20 }.rxEnabled = true ∧
    { Uart.reset with cr := 0x301, fifoRd := 20, fifoWr := 20 }.fifoLen = 0 ∧
    { Uart.reset with cr := 0x301, fifoRd := 20, fifoWr := 20 }.cursorsAgree ∧ (List.replicate 32 (0xA0 : Byte)).length ≤ 32 := by decide

theorem witness_PinReportRecordsEnabledConditions :
    State.reset.gpio.funcsel[29] ≠ 5 ∧ (pin0 false 0).gpio.funcsel[0] = 5 := by decide

theorem witness_ReportRaisesOnlyItsTransitionsEdge :
    ∃ t, exec (.gpioReport 0 true) (pin0 false 0) = .next t ∧ 2 ≤ (3 : Fin 32).val % 4 ∧ t.gpio.intr[0].getLsbD 3 = true ∧
      (pin0 false 0).gpio.intr[0].getLsbD 3 = false := ⟨_, rfl, by decide⟩

theorem witness_PendingBitsAreSetByReportsOnly :
    ∃ t, exec (.gpioIntrW .core0 0 0x800) (pin0 true 0xC00) = .next t ∧
      (∀ p lvl, Instr.gpioIntrW .core0 0 0x800 ≠ .gpioReport p lvl) ∧ (∀ snap, Instr.gpioIntrW .core0 0 0x800 ≠ .hostRestore snap) ∧
      t.gpio.intr[0].getLsbD 10 = true := ⟨_, rfl, nofun, nofun, by decide⟩

theorem witness_AlarmWriteArmsOrFires :
    (0x64 : Word) ≤ (timerAt 0x700000064 id).counter.extractLsb' 0 32 ∧ (timerAt 0x700000064 id).counter.extractLsb' 0 32 < (0x65 : Word) ∧
    (1 : Fin 4) ≠ 0 := by decide

theorem witness_ClockAdvanceFiresDueAlarms :
    (timerAt 5 id).clockNow ≤ 1005 ∧ (timerAt 5 id).clockNow ≤ 0xFFFFFFFFFFFFFFFF := by decide

theorem witness_CounterFollowsTheClock : ∃ t, exec (.clockAdvance 1040) (timerAt 0 id) = .next t := ⟨_, rfl⟩

theorem witness_CounterIsMovedByNothingElse :
    (∃ t, exec (.busW32 .core0 0x40054030 1) (timerAt 200 id) = .next t) ∧
    (∀ x, Instr.busW32 .core0 0x40054030 1 ≠ .clockAdvance x) ∧ (∀ c v, Instr.busW32 .core0 0x40054030 1 ≠ .timerTimelwW c v) ∧
    (∀ c a v, Instr.busW32 .core0 0x40054030 1 = .busW32 c a v → decodeAddr (timerAt 200 id).cfg a .word ≠ .dev .timer 0x004) ∧
    Instr.busW32 .core0 0x40054030 1 ≠ .hostReset ∧ ∀ snap, Instr.busW32 .core0 0x40054030 1 ≠ .hostRestore snap :=
  ⟨⟨_, rfl⟩, nofun, nofun, by rintro _ _ _ ⟨⟩; decide, nofun, nofun⟩

/-- Alarm 0 armed at 150, the counter at 100. -/
def armed150 : State := timerAt 100 fun T => { T with armed := 1, target := T.target.set 0 150 }

theorem witness_AlarmFiresAtItsDeadline :
    (∃ t, exec (.clockAdvance 1149) armed150 = .next t) ∧ (∃ t, exec (.clockAdvance 1150) armed150 = .next t) ∧
    armed150.timer.paused = false ∧ armed150.timer.armed.getLsbD 0 = true ∧ armed150.counter < armed150.timer.target[0] ∧
    armed150.clockNow.toNat + (armed150.timer.target[0].toNat - armed150.counter.toNat) < 2 ^ 64 ∧
    1149 < armed150.clockNow + (armed150.timer.target[0] - armed150.counter) ∧
    1150 = armed150.clockNow + (armed150.timer.target[0] - armed150.counter) := ⟨⟨_, rfl⟩, ⟨_, rfl⟩, by decide⟩

theorem witness_DisarmedAlarmNeverFires :
    (∃ t, exec (.busW32 .core0 0x40054018 5) armed150 = .next t) ∧ armed150.timer.armed.getLsbD 1 = false ∧
    (∀ c v, Instr.busW32 .core0 0x40054018 5 ≠ .timerAlarmW c 1 v) ∧
    (∀ c a v, Instr.busW32 .core0 0x40054018 5 = .busW32 c a v →
      decodeAddr armed150.cfg a .word ≠ .dev .timer (BitVec.ofNat 12 (0x010 + 4 * (1 : Fin 4).val))) ∧
    ∀ snap, Instr.busW32 .core0 0x40054018 5 ≠ .hostRestore snap :=
  ⟨⟨_, rfl⟩, by decide, nofun, by rintro _ _ _ ⟨⟩; decide, nofun⟩

theorem witness_LatchIsTakenByHighReadsOnly :
    (∃ t, exec (.busR32 .core1 0x4005400C) (timerAt 5 id) = .next t) ∧ (∀ c, Instr.busR32 .core1 0x4005400C ≠ .timerTimehrR c) ∧
    (∀ c a, Instr.busR32 .core1 0x4005400C = .busR32 c a → decodeAddr (timerAt 5 id).cfg a .word ≠ .dev .timer 0x008) ∧
    Instr.busR32 .core1 0x4005400C ≠ .hostReset ∧ ∀ snap, Instr.busR32 .core1 0x4005400C ≠ .hostRestore snap :=
  ⟨⟨_, rfl⟩, nofun, by rintro _ _ ⟨⟩; decide, nofun, nofun⟩

theorem witness_ClockMovesForwardByAdvanceOnly :
    (∃ t, exec .hostReset (timerAt 5 id) = .next t ∧ ∀ x, Instr.hostReset ≠ .clockAdvance x) ∧
    ∃ t, exec (.clockAdvance 1005) (timerAt 5 id) = .next t := ⟨⟨_, rfl, nofun⟩, _, rfl⟩

theorem witness_DispatcherDecodesByRegion :
    (0x20000001#32).toNat % widthBytes .half ≠ 0 ∧
    ((0x40035000#32).toNat % widthBytes .word = 0 ∧ ∀ r ∈ Config.default.regions,
      ¬ (r.base ≤ (0x40035000#32).toNat ∧ (0x40035000#32).toNat + widthBytes .word - 1 ≤ r.base + r.size - 1)) ∧
    Config.default.ok = true ∧ ⟨0x20000000, 0x42000, .mem .sram⟩ ∈ Config.default.regions ∧
    ((0x20041FFE#32).toNat % widthBytes .half = 0 ∧ 0x20000000 ≤ (0x20041FFE#32).toNat ∧ (0x20041FFE#32).toNat < 0x20000000 + 0x42000) := by
  decide

theorem witness_BusReadsOfMemory :
    3 < [0x10, 0x20, 0x30, (0x40 : Byte)].length ∧
    ((sramWith [(0, 0x44), (0x41FFF, 9)]).sram.wf ∧ (0x41FFF, 9) ∈ (sramWith [(0, 0x44), (0x41FFF, 9)]).sram) ∧
    (∀ b : Byte, (1, b) ∉ (sramWith [(0, 0x44), (0x41FFF, 9)]).sram) ∧
    decodeAddr State.reset.cfg 0x00003FFF .byte = .mem .rom 0x3FFF ∧ decodeAddr State.reset.cfg 0x10FFFFFE .half = .mem .xip 0xFFFFFE ∧
    decodeAddr State.reset.cfg 0x20041FFC .word = .mem .sram 0x41FFC :=
  ⟨by decide, by decide, by rintro b (_ | ⟨_, _ | ⟨_, ⟨⟩⟩⟩), by decide⟩

/-- The default configuration with a ROM of four bytes, given one by one. -/
def romFour (bytes : List Byte) : Config := { Config.default with romSize := 4, romImage := .given bytes }

/-- R91 of 20_memory.md over a given ROM_IMAGE: the byte at the lowest address is least significant. -/
theorem test_bus_reads_the_given_rom :
    gives { State.reset with cfg := romFour [0x10, 0x20, 0x30, 0x40] } (.busR32 .core0 0) 0x40302010 = true ∧
    gives { State.reset with cfg := romFour [0x10, 0x20, 0x30, 0x40] } (.busR16 .core0 2) 0x4030 = true := by decide

theorem witness_BusWritesOfSram :
    decodeAddr State.reset.cfg 0x20041FFF .byte = .mem .sram 0x41FFF ∧ decodeAddr State.reset.cfg 0x20041FFE .half = .mem .sram 0x41FFE ∧
    decodeAddr State.reset.cfg 0x20000000 .word = .mem .sram 0 := by decide

theorem witness_BusGuestErrorsLogAndGoOn :
    decodeAddr State.reset.cfg 0x20000002 .word = .err .misaligned ∧ decodeAddr State.reset.cfg 0x20042000 .byte = .err .unmapped ∧
    decodeAddr State.reset.cfg 0x40014004 .half = .err .badWidth ∧
    (decodeAddr State.reset.cfg 0x50200FFC .word = .stub ∧ GuestErrorKind.stub = .stub) := by decide

theorem witness_ReadOnlyRegionsIgnoreWrites :
    (MemKind.rom ≠ .sram ∧ decodeAddr State.reset.cfg 0 .word = .mem .rom 0) ∧
    (MemKind.xip ≠ .sram ∧ decodeAddr State.reset.cfg 0x10FFFFFF .byte = .mem .xip 0xFFFFFF) := by decide

theorem witness_ReservedAccessesLogAndGoOn :
    1 < State.reset.uarts.length ∧ State.reset.cfg.uartBase[1]? = some 0x40038000 := by decide

theorem witness_BusReachesTheSelectedRegister :
    decodeAddr State.reset.cfg 0x40038FFC .word = .dev (.uart 1) 0xFFC ∧ decodeAddr State.reset.cfg 0x40014000 .word = .dev .gpio 0 ∧
    decodeAddr State.reset.cfg 0x40054040 .word = .dev .timer 0x040 := by decide

theorem witness_NoBusTransactionBlocks : State.reset.composed := by decide

theorem witness_GuestErrorChangesOnlyTheLog : ∃ t, exec (.busR32 .core1 0x30000000) State.reset = .next t ∧ t.diag ≠ State.reset.diag :=
  ⟨_, rfl, by decide⟩

theorem witness_NarrowReadsHaveNoSideEffect :
    (∃ t, exec (.busR8 .core0 0x40034000) open0 = .next t) ∧ ∃ t, exec (.busR16 .core0 0x40034000) open0 = .next t := ⟨⟨_, rfl⟩, _, rfl⟩

theorem witness_ClearAndStoreWritesAreIdempotent :
    (∃ t, exec (.uartIcrW .core0 0 0x10) (uart0 fun U => { U with ris := 0x30 }) = .next t) ∧
    ∃ t, exec (.timerPauseW .core0 1) (timerAt 200 id) = .next t := ⟨⟨_, rfl⟩, _, rfl⟩

theorem witness_BytesAreSentByEnabledUartsOnly : ∃ t, exec (.uartDrW .core0 0 0x41) open0 = .next t ∧ t.txLog ≠ open0.txLog :=
  ⟨_, rfl, by decide⟩

theorem witness_InterruptLinesFollowState :
    (uart0 fun U => { U with ris := 0x20, imsc := 0x20 }).uarts[0]? = some { Uart.reset with ris := 0x20, imsc := 0x20 } := by decide

theorem witness_PowerOnIsResetOfFreeInputs :
    State.reset.diag = [] ∧ State.reset.txLog = List.replicate State.reset.cfg.uartCount [] := by decide

theorem witness_CompositionErrorHasNoInitialState :
    Config.default.ok = true ∧ (romFour [1, 2, 3, 4]).ok = true ∧
    { Config.default with sramBase := 0xFFFBE000 }.ok = true ∧
    -- (1) two regions share an address
    { Config.default with gpioBase := 0x40034000 }.ok = false ∧ { Config.default with xipBase := 0x3FFC }.ok = false ∧
    -- (2) a window that is not aligned, or not 0x1000 long
    { Config.default with timerBase := 0x40054800 }.ok = false ∧
    { Config.default with stubWindows := [(0x50000000, 0x2000)] }.ok = false ∧
    -- (3) the size of a memory region is 0, or it or the base is no multiple of 4
    { Config.default with sramSize := 0 }.ok = false ∧ { Config.default with sramSize := 2 }.ok = false ∧
    { Config.default with sramBase := 0x20000002 }.ok = false ∧
    -- (4) a region that ends above 2^32
    { Config.default with sramBase := 0xFFFBE004 }.ok = false ∧
    -- (5) an image of another length
    (romFour [1, 2, 3]).ok = false ∧ { Config.default with xipImage := .unknown 0x00FFFFFF 1 }.ok = false ∧
    -- log entry 18
    { Config.default with uartBase := [], uartWiring := [] }.ok = false ∧
    { Config.default with uartWiring := [⟨true, true⟩] }.ok = false := by decide

/-- Check (5) of 00_scope.md R9 refuses a composition with an image of the wrong length. -/
theorem test_wrong_image_has_no_initial_state :
    State.init (romFour [1, 2, 3]) 0 [] = none ∧ (State.init (romFour [1, 2, 3, 4]) 0 []).isSome = true := by decide

theorem witness_RestoreRearmsOrFires :
    (snapWith (fun U => { U with fifoLen := 32 }) id).uarts.length = State.reset.cfg.uartCount ∧
    (∀ U ∈ (snapWith (fun U => { U with fifoLen := 32 }) id).uarts, U.fifoLen ≤ 32) ∧
    (snapWith (fun U => { U with fifoLen := 32 }) id).gpio.inRange := by decide

theorem witness_reset_Inv : State.reset.Inv := ⟨by decide, by decide, by decide, by decide, by decide⟩

theorem witness_RestoreUndoesSnapshot :
    State.reset.Inv ∧ (timerAt 500 id).cfg = State.reset.cfg ∧
    ∃ t, exec (.hostRestore State.reset.takeSnapshot) (timerAt 500 id) = .next t := ⟨witness_reset_Inv, by decide, _, rfl⟩

theorem witness_MisfitSnapshotIsRefused :
    ({ Evt.zeros with code := 0x7, snap := rawSnap }.code = 0x7) ∧
    { snapWith id id with uarts := [Uart.reset] }.uarts.length ≠ State.reset.cfg.uartCount ∧
    (∃ U ∈ (snapWith (fun U => { U with fifoLen := 33 }) id).uarts, 32 < U.fifoLen) ∧
    ¬ (snapWith id fun g => { g with inte0 := g.inte0.set 3 0x01000000 }).gpio.inRange := by decide

/-- Records with one field at the edge of its width are taken, records one past it are refused. -/
theorem test_decode_restore_edges :
    let restores (x : RawSnapshot) : Bool :=
      match decode (.evt { Evt.zeros with code := 0x7, snap := x }) with
      | .ok (.hostRestore snap) => decide (rawOfSnapshot snap = x)
      | _ => false
    restores { rawSnap with armed := 15 } = true ∧ restores { rawSnap with armed := 16 } = false ∧
    restores { rawSnap with funcsel := List.replicate 30 31 } = true ∧ restores { rawSnap with funcsel := List.replicate 30 32 } = false ∧
    restores { rawSnap with level := List.replicate 30 1 } = true ∧ restores { rawSnap with level := List.replicate 29 1 } = false ∧
    restores { rawSnap with inte1 := [0, 0, 0, 0x00FFFFFF] } = true ∧ restores { rawSnap with inte1 := [0, 0, 0, 0x01000000] } = false ∧
    restores { rawSnap with uarts := [{ RawUart.zeros with fifoLen := 32 }, { RawUart.zeros with ris := 0x800 }] } = false := by decide

theorem witness_InvariantHoldsAtPowerOn :
    Config.default.ok = true ∧ Memory.wf [(0, 1), (0x41FFF, 2)] ∧ ∀ cell ∈ ([(0, 1), (0x41FFF, 2)] : Memory), cell.1 < Config.default.sramSize := by
  decide

theorem witness_EveryStepKeepsTheInvariant :
    ((queued (.evt { Evt.zeros with code := 0x5 })).Inv ∧ ∃ t, step (queued (.evt { Evt.zeros with code := 0x5 })) = .next t) ∧
    (queued (.evt { Evt.zeros with code := 0x7, snap := rawSnap })).cursorsAgree ∧
    (queued (.evt { Evt.zeros with code := 0x7, snap := rawSnap })).nextKeepsCursors ∧
    ∃ t, step (queued (.evt { Evt.zeros with code := 0x7, snap := rawSnap })) = .next t :=
  ⟨⟨⟨by decide, by decide, by decide, by decide, by decide⟩, _, rfl⟩, by decide, by rintro _ _ _ ⟨⟩ ⟨⟩; decide, _, rfl⟩

theorem witness_CursorsAgreeIsKept :
    (∃ t, State.Reachable t ∧ exec (.hostRestore State.reset.takeSnapshot) State.reset = .next t) ∧
    (open0.cursorsAgree ∧ (∀ snap, Instr.uartRx 0 [0x55] ≠ .hostRestore snap) ∧ ∃ t, exec (.uartRx 0 [0x55]) open0 = .next t) ∧
    (∃ t, exec (.hostRestore (snapWith (fun U => { U with fifoRd := 30, fifoWr := 3, fifoLen := 5 }) id)) open0 = .next t ∧ t.cursorsAgree) ∧
    ∃ t, exec (.hostRestore (snapWith (fun U => { U with fifoRd := 30, fifoWr := 9, fifoLen := 5 }) id)) open0 = .next t ∧ ¬ t.cursorsAgree :=
  have hr : State.reset.Reachable := .powerOn .default 0 [] _ rfl
  ⟨⟨_, .restoredSnapshot _ _ _ hr hr rfl, rfl⟩,
    ⟨by decide, nofun, _, rfl⟩, ⟨_, rfl, by decide⟩, _, rfl, by decide⟩

/-- R451 of 70_reset_and_hazards.md copies every UART field, the write cursor of a host's record among them. -/
theorem test_restore_copies_the_cursors :
    after open0 (.hostRestore (snapWith (fun U => { U with fifoRd := 30, fifoWr := 9, fifoLen := 5 }) id))
      (uart0Is (fun U => (U.fifoRd, U.fifoWr, U.fifoLen)) (30, 9, 5)) = true := by decide

theorem witness_OperationsKeepConfigurationAndQueue :
    ∃ t, exec (.clockAdvance 1040) ((timerAt 0 id).setPending [.evt { Evt.zeros with code := 0x5 }]) = .next t := ⟨_, rfl⟩

end Sys2Proof.Tests
end

/-! What one step does with the queue. -/

namespace Sys2Proof.Machine

variable {s t : State} {op : RawOp} {rest : List RawOp}

theorem step_of_empty (hp : s.pending = []) : step s = .next s := by
  simp only [step, hp]

theorem step_of_ok {i : Instr} (hp : s.pending = op :: rest) (hd : decode op = .ok i) : step s = exec i (s.setPending rest) := by
  simp only [step, hp, hd]

theorem step_of_error {e : DecodeError} (hp : s.pending = op :: rest) (hd : decode op = .error e) :
    step s = .refused (.illFormed e) := by
  simp only [step, hp, hd]

/-- All a step that answers a next state can be: idle, or a run of the operation at the head of the queue. -/
theorem step_next (h : step s = .next t) :
    t = s ∨ ∃ op rest i, s.pending = op :: rest ∧ decode op = .ok i ∧ exec i (s.setPending rest) = .next t := by
  cases hp : s.pending with
  | nil =>
    rw [step_of_empty hp] at h
    exact .inl (next_inj.1 h).symm
  | cons op rest =>
    cases hd : decode op with
    | ok i =>
      rw [step_of_ok hp hd] at h
      exact .inr ⟨op, rest, i, rfl, hd, h⟩
    | error e =>
      rw [step_of_error hp hd] at h
      exact (refused_ne_next.1 h).elim

/-- Settles O1: the three cases of the queue, by the equation of `step` for each. -/
theorem stepRunsDecodedOperation : Obligations.StepRunsDecodedOperation :=
  ⟨fun _ _ _ _ hp hd => step_of_ok hp hd, fun _ _ _ _ hp hd => step_of_error hp hd, fun _ hp => step_of_empty hp⟩

end Sys2Proof.Machine

/-! Each part of the invariant under the updates of that part: the UARTs' FIFOs and control register, the GPIO registers 3, the
timer's alarms, and RAM. -/

namespace Sys2Proof.Machine

/-! UARTs. -/

/-- Where every UART has a property, the list with one UART replaced by another that has it keeps it. -/
theorem forall_mem_setUart {P : Uart → Prop} {Us : List Uart} {V : Uart} (h : ∀ U ∈ Us, P U) (u : Nat) (hV : P V) :
    ∀ U ∈ Us.set u V, P U := by
  intro U hU
  rcases List.mem_or_eq_of_mem_set hU with hU | rfl
  · exact h U hU
  · exact hV

@[simp] theorem Uart.popData_cr (U : Uart) : U.popData.cr = U.cr := by
  unfold Uart.popData
  split <;> rfl

@[simp] theorem Uart.popData_fifoLen (U : Uart) : U.popData.fifoLen = U.fifoLen - 1 := by
  unfold Uart.popData
  split <;> rfl

theorem Uart.inRange_popData {U : Uart} (h : U.inRange) : U.popData.inRange := by
  obtain ⟨hlen, hcr⟩ := h
  refine ⟨?_, by rw [Uart.popData_cr]; exact hcr⟩
  rw [Uart.popData_fifoLen]
  omega

theorem Uart.inRange_raise {U : Uart} (h : U.inRange) (bits : BitVec 11) : (U.raise bits).inRange := h

theorem Uart.inRange_receive {U : Uart} (h : U.inRange) (b : Byte) : (U.receive b).inRange := by
  unfold Uart.receive
  split
  · split
    · next hlt => exact ⟨hlt, h.2⟩
    · exact h
  · exact h

theorem Uart.inRange_receiveAll {U : Uart} (h : U.inRange) (bytes : List Byte) : (U.receiveAll bytes).inRange :=
  List.foldlRecOn bytes Uart.receive h fun _ hV b _ => Uart.inRange_receive hV b

/-- UARTCR is written under its mask, so no bit beyond it is ever stored (10_state.md R37). -/
theorem and_crMask_inRange (x : BitVec 16) : x &&& crMask &&& ~~~crMask = 0 := by
  rw [BitVec.and_assoc, BitVec.and_not_self]
  exact BitVec.and_zero

theorem Uart.Stored.inRange {U V : Uart} (hV : U.Stored V) (h : U.inRange) : V.inRange := by
  obtain ⟨hlen, hcr⟩ := h
  refine ⟨hV.fifoLen ▸ hlen, ?_⟩
  rcases hV.cr with heq | ⟨v, heq⟩
  · rw [heq, hcr]
  · rw [heq, and_crMask_inRange]

theorem Uart.inRange_reset : Uart.reset.inRange := by decide

theorem Uart.inRange_restored {U : Uart} (h : uartFits U = true) : U.restored.inRange :=
  ⟨of_decide_eq_true h, and_crMask_inRange U.cr⟩

theorem Uart.cursorsAgree_popData {U : Uart} (hlen : 0 < U.fifoLen) (h : U.cursorsAgree) : U.popData.cursorsAgree := by
  have hpop := Uart.cursorsAgree_pop U hlen h
  unfold Uart.popData
  split <;> exact hpop

theorem Uart.cursorsAgree_raise {U : Uart} (h : U.cursorsAgree) (bits : BitVec 11) : (U.raise bits).cursorsAgree := h

theorem Uart.cursorsAgree_receiveAll {U : Uart} (h : U.cursorsAgree) (bytes : List Byte) : (U.receiveAll bytes).cursorsAgree :=
  List.foldlRecOn bytes Uart.receive h fun V hV b _ => Uart.cursorsAgree_receive V b hV

theorem Uart.Stored.cursorsAgree {U V : Uart} (hV : U.Stored V) (h : U.cursorsAgree) : V.cursorsAgree := by
  rw [Uart.cursorsAgree, hV.fifoWr, hV.fifoRd, hV.fifoLen]
  exact h

theorem Uart.cursorsAgree_reset : Uart.reset.cursorsAgree := by decide

/-! GPIO. -/

/-- The bits of INTR_MASK[3] are the low 24. -/
theorem intrMask_three_getLsbD : ∀ b : Fin 32, (intrMask 3).getLsbD b.val = decide (b.val < 24) := by decide

/-- A word within INTR_MASK[3], bit by bit. -/
theorem and_not_intrMask_three {w : Word} : w &&& ~~~(intrMask 3) = 0 ↔ ∀ b, 24 ≤ b → b < 32 → w.getLsbD b = false := by
  have hbit : ∀ b, b < 32 → (w &&& ~~~(intrMask 3)).getLsbD b = (w.getLsbD b && !decide (b < 24)) := by
    intro b hb
    rw [BitVec.getLsbD_and, BitVec.getLsbD_not, intrMask_three_getLsbD ⟨b, hb⟩]
    simp [hb]
  constructor
  · intro h b hge hb
    have hz := hbit b hb
    rw [h] at hz
    simpa [Nat.not_lt.2 hge] using hz.symm
  · intro h
    apply BitVec.eq_of_getLsbD_eq
    intro b hb
    rw [hbit b hb]
    by_cases hlt : b < 24
    · simp [hlt]
    · simp [h b (Nat.not_lt.1 hlt) hb]

/-- Clearing bits of a word within INTR_MASK[3] keeps it there. -/
theorem and_and_intrMask_three {w : Word} (h : w &&& ~~~(intrMask 3) = 0) (x : Word) : w &&& x &&& ~~~(intrMask 3) = 0 := by
  rw [BitVec.and_assoc, BitVec.and_comm x, ← BitVec.and_assoc, h]
  exact BitVec.zero_and

/-- Register 3 stays within its 24 bits when a register is replaced, if the new word of register 3 is within them. -/
theorem set_inRange {xs : Vector Word 4} {r : Fin 4} {w : Word} (h : xs[3] &&& ~~~(intrMask 3) = 0)
    (hw : r = 3 → w &&& ~~~(intrMask 3) = 0) : (xs.set r w)[3] &&& ~~~(intrMask 3) = 0 := by
  have hget : (xs.set r w)[3] = if r = 3 then w else xs[3] := Vector.get_set_fin xs r 3 w
  rw [hget]
  split
  · next hr => exact hw hr
  · exact h

theorem and_intrMask_inRange (v : Word) {r : Fin 4} (hr : r = 3) : v &&& intrMask r &&& ~~~(intrMask 3) = 0 := by
  rw [hr, BitVec.and_assoc, BitVec.and_not_self]
  exact BitVec.and_zero

/-- A clearing write keeps register 3 within its 24 bits. -/
theorem clearIntr_inRange {xs : Vector Word 4} (h : xs[3] &&& ~~~(intrMask 3) = 0) (r : Fin 4) (x : Word) :
    (xs.set r (xs[r] &&& x))[3] &&& ~~~(intrMask 3) = 0 :=
  set_inRange h fun hr => by subst hr; exact and_and_intrMask_three h x

/-- Register 3 holds pins 24 to 29 only, so a report records nothing beyond its 24 bits. -/
theorem Gpio.inRange_recordConditions {g : Gpio} (h : g.inRange) (p : Fin 30) (cond : BitVec 4) :
    (g.recordConditions p cond).inRange := by
  obtain ⟨hintr, hinte⟩ := h
  refine ⟨and_not_intrMask_three.2 fun b hge hb => ?_, hinte⟩
  have hplace : pinHolds p 3 b = false := by
    have hp := p.isLt
    simp only [pinHolds, decide_eq_false_iff_not, not_and]
    omega
  have hbit := Gpio.recordConditions_getLsbD g p cond 3 b hb
  rw [hplace, Bool.false_and, Bool.false_and, Bool.or_false] at hbit
  exact hbit.trans (and_not_intrMask_three.1 hintr b hge hb)

theorem Gpio.inRange_report {g : Gpio} (h : g.inRange) (p : Fin 30) (lvl : Bool) : (g.report p lvl).inRange := by
  unfold Gpio.report
  split
  · exact Gpio.inRange_recordConditions (g := { g with level := g.level.set p lvl }) h p _
  · exact h

theorem Gpio.inRange_reset : Gpio.reset.inRange := by decide

theorem gpioFits_iff {g : Gpio} : gpioFits g = true ↔ g.inRange := by
  simp only [gpioFits, Bool.and_eq_true, beq_iff_eq, and_assoc]

theorem snapshotFits_iff {snap : Snapshot} :
    snapshotFits snap = true ↔ (∀ U ∈ snap.uarts, uartFits U = true) ∧ snap.gpio.inRange := by
  rw [snapshotFits, Bool.and_eq_true, List.all_eq_true, gpioFits_iff]

/-! Timer. -/

/-- Disarming alarms makes none overdue. -/
theorem Timer.noneOverdue_disarm {T : Timer} {now : Time} (h : T.noneOverdue now) (x : BitVec 4) :
    { T with armed := T.armed &&& x }.noneOverdue now := by
  intro k hk
  rw [BitVec.getLsbD_and, Bool.and_eq_true] at hk
  exact h k hk.1

theorem Timer.noneOverdue_reset (now : Time) : (Timer.reset now).noneOverdue now := by
  intro k hk
  have hoff : (Timer.reset now).armed.getLsbD k.val = false := BitVec.getLsbD_zero
  rw [hoff] at hk
  cases hk

/-! RAM. -/

/-- The regions of the address map, one by one (20_memory.md R81). -/
theorem Config.mem_regions {cfg : Config} {r : Region} : r ∈ cfg.regions ↔
    r = ⟨cfg.romBase, cfg.romSize, .mem .rom⟩ ∨ r = ⟨cfg.xipBase, cfg.xipSize, .mem .xip⟩ ∨
    r = ⟨cfg.sramBase, cfg.sramSize, .mem .sram⟩ ∨
    (∃ u base, cfg.uartBase[u]? = some base ∧ r = ⟨base, windowSize, .device (.uart u)⟩) ∨
    r = ⟨cfg.gpioBase, windowSize, .device .gpio⟩ ∨ r = ⟨cfg.timerBase, windowSize, .device .timer⟩ ∨
    ∃ w ∈ cfg.stubWindows, r = ⟨w.1, w.2, .stub⟩ := by
  have huart : r ∈ cfg.uartRegions ↔
      ∃ u base, cfg.uartBase[u]? = some base ∧ r = ⟨base, windowSize, .device (.uart u)⟩ := by
    simp only [Config.uartRegions, List.mem_map, Prod.exists, List.mem_zipIdx_iff_getElem?, @eq_comm Region r]
    exact exists_comm
  simp only [Config.regions, List.mem_append, List.mem_cons, List.mem_map, List.not_mem_nil, or_false, huart, or_assoc,
    @eq_comm Region r]

theorem Config.shapeOk_of_ok {cfg : Config} (h : cfg.ok = true) {r : Region} (hr : r ∈ cfg.regions) : r.shapeOk = true := by
  simp only [Config.ok, Bool.and_eq_true] at h
  obtain ⟨⟨⟨⟨⟨-, hshape⟩, -⟩, -⟩, -⟩, -⟩ := h
  exact List.all_eq_true.1 hshape r hr

/-- The SRAM region is the only one that holds RAM. -/
theorem Config.region_sram {cfg : Config} {r : Region} (hr : r ∈ cfg.regions) (hk : r.kind = .mem .sram) :
    r = ⟨cfg.sramBase, cfg.sramSize, .mem .sram⟩ := by
  rcases Config.mem_regions.1 hr with rfl | rfl | rfl | ⟨u, base, -, rfl⟩ | rfl | rfl | ⟨w, -, rfl⟩
  case inr.inr.inl => rfl
  all_goals cases hk

/-- In a composition that passes the checks, a store that reaches RAM lies inside it. -/
theorem decodeAddr_sram_bound {cfg : Config} (hok : cfg.ok = true) {a : Word} {w : BusWidth} {off : Nat}
    (h : decodeAddr cfg a w = .mem .sram off) : off + widthBytes w ≤ cfg.sramSize := by
  obtain ⟨-, r, hmem, hk, hlo, hhi, rfl⟩ := decodeAddr_mem h
  have hshape := Config.shapeOk_of_ok hok hmem
  obtain rfl := Config.region_sram hmem hk
  simp only [Region.shapeOk, Bool.and_eq_true, decide_eq_true_eq] at hshape
  have hw : 0 < widthBytes w := by cases w <;> decide
  simp only at hlo hhi ⊢
  omega

end Sys2Proof.Machine

/-! Every operation keeps the invariant: one rule for each update of the state, and the operations put together from them. -/

namespace Sys2Proof.Machine

variable {s t : State} {i : Instr}

/-- The invariant speaks of the configuration, the devices, the clock, RAM and the number of send lists only. -/
theorem State.Inv.congr (h : s.Inv) (hcfg : t.cfg = s.cfg) (huarts : t.uarts = s.uarts) (htx : t.txLog = s.txLog)
    (hsram : t.sram = s.sram) (hgpio : t.gpio = s.gpio) (htimer : t.timer = s.timer) (hclock : t.clockNow = s.clockNow) : t.Inv := by
  obtain ⟨hcomposed, hram, hU, hg, hT⟩ := h
  constructor
  · rwa [State.composed, hcfg, huarts, htx]
  · rwa [State.sramOk, hcfg, hsram]
  · rwa [huarts]
  · rwa [hgpio]
  · rwa [htimer, hclock]

theorem State.Inv.answer {c : CoreId} {v : Word} (h : s.Inv) : (s.answer c v).Inv := h.congr rfl rfl rfl rfl rfl rfl rfl

theorem State.Inv.complete {c : CoreId} (h : s.Inv) : (s.complete c).Inv := h.congr rfl rfl rfl rfl rfl rfl rfl

theorem State.Inv.setReply {r : Reply} (h : s.Inv) : (s.setReply r).Inv := h.congr rfl rfl rfl rfl rfl rfl rfl

theorem State.Inv.setPending {ops : List RawOp} (h : s.Inv) : (s.setPending ops).Inv := h.congr rfl rfl rfl rfl rfl rfl rfl

theorem State.Inv.answerDraw {c : CoreId} (h : s.Inv) : (s.answerDraw c).Inv := h.congr rfl rfl rfl rfl rfl rfl rfl

theorem State.Inv.guestError {kind : GuestErrorKind} {c : CoreId} {dir : Dir} {a : Word} {w : BusWidth} {v : Word} (h : s.Inv) :
    (s.guestError kind c dir a w v).Inv := by
  apply h.congr <;> simp

theorem State.Inv.setUart {u : Nat} {V : Uart} (h : s.Inv) (hV : V.inRange) : (s.setUart u V).Inv := by
  obtain ⟨⟨hok, hn, htx⟩, hram, hU, hg, hT⟩ := h
  exact ⟨⟨hok, List.length_set.trans hn, htx⟩, hram, forall_mem_setUart hU u hV, hg, hT⟩

theorem State.Inv.send {u : Nat} {b : Byte} (h : s.Inv) : (s.send u b).Inv := by
  obtain ⟨⟨hok, hn, htx⟩, hram, hU, hg, hT⟩ := h
  exact ⟨⟨hok, hn, List.length_set.trans htx⟩, hram, hU, hg, hT⟩

theorem State.Inv.setGpio {g : Gpio} (h : s.Inv) (hg : g.inRange) : (s.setGpio g).Inv :=
  ⟨h.composed, h.sram, h.uarts, hg, h.timer⟩

theorem State.Inv.setTimer {T : Timer} (h : s.Inv) (hT : T.noneOverdue s.clockNow) : (s.setTimer T).Inv :=
  ⟨h.composed, h.sram, h.uarts, h.gpio, hT⟩

theorem State.Inv.evalAlarms {T : Timer} (h : s.Inv) : (s.setTimer (T.evalAlarms s.clockNow)).Inv :=
  h.setTimer (T.noneOverdue_evalAlarms s.clockNow)

/-- A clock advance evaluates the alarms at the new time, so none is left overdue (44_timer.md R340). -/
theorem State.Inv.advance {x : Time} (h : s.Inv) : ((s.setClock x).setTimer (s.timer.evalAlarms x)).Inv :=
  ⟨h.composed, h.sram, h.uarts, h.gpio, s.timer.noneOverdue_evalAlarms x⟩

theorem State.Inv.memWrite {a v : Word} {w : BusWidth} {off : Nat} (h : s.Inv)
    (hdec : decodeAddr s.cfg a w = .mem .sram off) : (s.memWrite off w v).Inv := by
  obtain ⟨hcomposed, ⟨hwf, hin⟩, hU, hg, hT⟩ := h
  refine ⟨hcomposed, ⟨Memory.wf_writeBytes hwf off _, fun cell hcell => ?_⟩, hU, hg, hT⟩
  have hbound := decodeAddr_sram_bound hcomposed.1 hdec
  rcases Memory.mem_writeBytes hcell with hold | ⟨-, hlt⟩
  · exact hin cell hold
  · rw [bytesLE_length] at hlt
    exact Nat.lt_of_lt_of_le hlt hbound

theorem State.Inv.resetDevices (h : s.Inv) : s.resetDevices.Inv := by
  obtain ⟨⟨hok, -, htx⟩, hram, -, -, -⟩ := h
  refine ⟨⟨hok, List.length_replicate, htx⟩, hram, fun U hU => ?_, Gpio.inRange_reset, Timer.noneOverdue_reset s.clockNow⟩
  rw [List.eq_of_mem_replicate hU]
  exact Uart.inRange_reset

theorem State.Inv.restoreDevices {snap : Snapshot} (h : s.Inv) (hfit : snapshotFits snap = true)
    (hn : snap.uarts.length = s.cfg.uartCount) : (s.restoreDevices snap).Inv := by
  obtain ⟨⟨hok, -, htx⟩, hram, -, -, -⟩ := h
  obtain ⟨hU, hg⟩ := snapshotFits_iff.1 hfit
  refine ⟨⟨hok, (List.length_map _).trans hn, htx⟩, hram, fun V hV => ?_, hg, Timer.noneOverdue_evalAlarms _ s.clockNow⟩
  obtain ⟨U, hmem, rfl⟩ := List.mem_map.1 hV
  exact Uart.inRange_restored (hU U hmem)

/-- Every device access keeps the invariant. -/
theorem DeviceEffect.inv (e : DeviceEffect s i t) (h : s.Inv) : t.Inv := by
  obtain ⟨hintr, hinte0, hinte1⟩ := h.gpio
  have hUart {u : Nat} {U : Uart} (hU : s.uarts[u]? = some U) : U.inRange := h.uarts U (List.mem_of_getElem? hU)
  cases e with
  | answered _ c v => exact .answer h
  | ignored _ c => exact .complete h
  | reserved _ c dir a v => exact .guestError h
  | drawn c u => exact .answerDraw h
  | popped c u U hU hlen => exact .answer (.setUart h (Uart.inRange_popData (hUart hU)))
  | sent c u v U hU hen => exact .complete (.setUart h.send (Uart.inRange_raise (hUart hU) _))
  | storedUart _ c u U V hU hV => exact .complete (.setUart h (hV.inRange (hUart hU)))
  | storedCtrl c p v => exact .complete (.setGpio h ⟨hintr, hinte0, hinte1⟩)
  | clearedGpio c r v => exact .complete (.setGpio h ⟨clearIntr_inRange hintr r _, hinte0, hinte1⟩)
  | enabled0 c r v => exact .complete (.setGpio h ⟨hintr, set_inRange hinte0 (and_intrMask_inRange v), hinte1⟩)
  | enabled1 c r v => exact .complete (.setGpio h ⟨hintr, hinte0, set_inRange hinte1 (and_intrMask_inRange v)⟩)
  | rebased c v => exact .complete h.evalAlarms
  | latched c => exact .answer (.setTimer h h.timer)
  | armed c k v => exact .complete h.evalAlarms
  | disarmed c v => exact .complete (.setTimer h (Timer.noneOverdue_disarm h.timer _))
  | paused c v => exact .complete h.evalAlarms
  | clearedTimer c v => exact .complete (.setTimer h h.timer)
  | enabledTimer c v => exact .complete (.setTimer h h.timer)

/-- Every operation keeps the invariant. -/
theorem Effect.inv (e : Effect s i t) (h : s.Inv) : t.Inv := by
  cases e with
  | device _ _ hi hd => exact hd.inv h
  | deviceRead c a port off hdec j hsel _ hj hdir hd => exact hd.inv h
  | deviceWritten c a v port off hdec j hsel _ hj hdir hd => exact hd.inv h
  | memoryRead _ hi c v => exact h.answer
  | guestError _ kind c dir a w v hi => exact h.guestError
  | memoryWritten _ hi c a w v off hdec => exact (h.memWrite hdec).complete
  | delivered u bytes U hU =>
    exact (h.setUart (Uart.inRange_receiveAll (h.uarts U (List.mem_of_getElem? hU)) bytes)).setReply
  | capacity u n => exact h.setReply
  | reported p lvl => exact (h.setGpio (Gpio.inRange_report h.gpio p lvl)).setReply
  | advanced x hx => exact h.advance.setReply
  | reset => exact h.resetDevices.setReply
  | snapshotTaken => exact h.setReply
  | restored snap hfit hn => exact (h.restoreDevices hfit hn).setReply

theorem exec_keeps_inv (h : s.Inv) (he : exec i s = .next t) : t.Inv := (effect_of_exec he).inv h

/-- A device access keeps the FIFO cursors in agreement. -/
theorem DeviceEffect.cursorsAgree (e : DeviceEffect s i t) (h : s.cursorsAgree) : t.cursorsAgree := by
  have hUart {u : Nat} {U : Uart} (hU : s.uarts[u]? = some U) : U.cursorsAgree := h U (List.mem_of_getElem? hU)
  cases e with
  | popped c u U hU hlen => exact forall_mem_setUart h u (Uart.cursorsAgree_popData hlen (hUart hU))
  | sent c u v U hU hen => exact forall_mem_setUart h u (Uart.cursorsAgree_raise (hUart hU) _)
  | storedUart _ c u U V hU hV => exact forall_mem_setUart h u (hV.cursorsAgree (hUart hU))
  | reserved _ c dir a v => rwa [State.cursorsAgree, State.guestError_uarts]
  | _ => exact h

/-- Every operation keeps the FIFO cursors in agreement, a restore if the record's cursors agree (log entry 13). -/
theorem Effect.cursorsAgree (e : Effect s i t) (h : s.cursorsAgree)
    (hr : ∀ snap, i = .hostRestore snap → ∀ U ∈ snap.uarts, U.cursorsAgree) : t.cursorsAgree := by
  cases e with
  | device _ _ hi hd => exact hd.cursorsAgree h
  | deviceRead c a port off hdec j hsel _ hj hdir hd => exact hd.cursorsAgree h
  | deviceWritten c a v port off hdec j hsel _ hj hdir hd => exact hd.cursorsAgree h
  | guestError _ kind c dir a w v hi => rwa [State.cursorsAgree, State.guestError_uarts]
  | delivered u bytes U hU =>
    exact forall_mem_setUart h u (Uart.cursorsAgree_receiveAll (h U (List.mem_of_getElem? hU)) bytes)
  | reset =>
    intro U hU
    rw [List.eq_of_mem_replicate hU]
    exact Uart.cursorsAgree_reset
  | restored snap hfit hn =>
    intro V hV
    obtain ⟨U, hmem, rfl⟩ := List.mem_map.1 hV
    exact (Uart.cursorsAgree_restored U).2 (hr snap rfl U hmem)
  | _ => exact h

theorem exec_keeps_cursorsAgree (h : s.cursorsAgree) (hr : ∀ snap, i = .hostRestore snap → ∀ U ∈ snap.uarts, U.cursorsAgree)
    (he : exec i s = .next t) : t.cursorsAgree := (effect_of_exec he).cursorsAgree h hr

/-- Settles O58: a step is idle or runs one operation, and every operation keeps the invariant and the cursors. -/
theorem everyStepKeepsTheInvariant : Obligations.EveryStepKeepsTheInvariant := by
  constructor
  · intro s t h hstep
    rcases step_next hstep with rfl | ⟨op, rest, i, hp, hd, he⟩
    · exact h
    · exact exec_keeps_inv h.setPending he
  · intro s t h hnext hstep
    rcases step_next hstep with rfl | ⟨op, rest, i, hp, hd, he⟩
    · exact h
    · have hr (snap : Snapshot) (hi : i = .hostRestore snap) : ∀ U ∈ snap.uarts, U.cursorsAgree :=
        hnext op rest snap hp (hi ▸ hd)
      exact exec_keeps_cursorsAgree (s := s.setPending rest) h hr he

end Sys2Proof.Machine

/-! How a register access ends for its core: the shared operations, each register operation, and the bus paths over them. -/

namespace Sys2Proof.Machine

variable {s : State} {c : CoreId} {u : Nat}

/-- The result is a next state whose reply ends an access of the direction for the core. -/
def EndsAccess (dir : Dir) (c : CoreId) (r : Result) : Prop := ∃ t, r = .next t ∧ Reply.endsAccess dir c t.reply

theorem endsAccess_read {r : Result} : EndsAccess .read c r ↔ ∃ t v, r = .next t ∧ t.reply = .value c v := by
  simp only [EndsAccess, Reply.endsAccess, exists_and_left]

theorem endsAccess_write {r : Result} : EndsAccess .write c r ↔ ∃ t, r = .next t ∧ t.reply = .written c := Iff.rfl

/-- An operation on a UART that exists ends as its body does. -/
theorem withUart_ends {k : Uart → Result} {dir : Dir} (hu : u < s.uarts.length) (hk : ∀ U, EndsAccess dir c (k U)) :
    EndsAccess dir c (withUart s u k) := by
  rw [withUart, List.getElem?_eq_getElem hu]
  exact hk _

theorem readUart_ends {f : Uart → Word} (hu : u < s.uarts.length) : EndsAccess .read c (readUart c u s f) :=
  withUart_ends hu fun _ => ⟨_, rfl, _, rfl⟩

theorem writeUart_ends {f : Uart → Uart} (hu : u < s.uarts.length) : EndsAccess .write c (writeUart c u s f) :=
  withUart_ends hu fun _ => ⟨_, rfl, rfl⟩

theorem ignoreUart_ends (hu : u < s.uarts.length) : EndsAccess .write c (ignoreUart c u s) :=
  withUart_ends hu fun _ => ⟨_, rfl, rfl⟩

theorem readReg_ends {v : Word} : EndsAccess .read c (readReg c s v) := ⟨_, rfl, _, rfl⟩

theorem writeGpio_ends {g : Gpio} : EndsAccess .write c (writeGpio c s g) := ⟨_, rfl, rfl⟩

theorem writeTimer_ends {T : Timer} : EndsAccess .write c (writeTimer c s T) := ⟨_, rfl, rfl⟩

theorem ignoreReg_ends : EndsAccess .write c (ignoreReg c s) := ⟨_, rfl, rfl⟩

theorem guestError_ends {kind : GuestErrorKind} {dir : Dir} {a v : Word} {w : BusWidth} :
    EndsAccess dir c (.next (s.guestError kind c dir a w v)) := by
  refine ⟨_, rfl, ?_⟩
  rw [State.guestError_reply]
  cases dir with
  | read => exact ⟨0, rfl⟩
  | write => rfl

/-- A read of UARTDR ends with a byte, or with a draw when the FIFO is empty (42_uart.md R200). -/
theorem execUartDrR_ends (hu : u < s.uarts.length) : EndsAccess .read c (execUartDrR c u s) :=
  withUart_ends hu fun U => by
    split
    · exact ⟨_, rfl, _, rfl⟩
    · exact ⟨_, rfl, _, rfl⟩

/-- A write of UARTDR ends whether the byte is sent or lost (42_uart.md R201). -/
theorem execUartDrW_ends (hu : u < s.uarts.length) (v : Word) : EndsAccess .write c (execUartDrW c u v s) :=
  withUart_ends hu fun U => by
    split
    · exact ⟨_, rfl, rfl⟩
    · exact ⟨_, rfl, rfl⟩

/-- Every register operation ends for its core, in its direction, if the UART it goes to exists. -/
theorem exec_endsAccess {i : Instr} {dir : Dir} (hc : i.accessCore = some c) (hd : i.accessDir = some dir)
    (hu : ∀ u, i.accessUart = some u → u < s.uarts.length) : EndsAccess dir c (exec i s) := by
  cases i with
  | uartDrR c u => cases hc; cases hd; exact execUartDrR_ends (hu u rfl)
  | uartDrW c u v => cases hc; cases hd; exact execUartDrW_ends (hu u rfl) v
  | uartReserved c u dir off v => cases hc; cases hd; exact withUart_ends (hu u rfl) fun _ => guestError_ends
  | uartRsrR c u | uartFrR c u | uartIlprR c u | uartIbrdR c u | uartFbrdR c u | uartLcrhR c u | uartCrR c u | uartIflsR c u
  | uartImscR c u | uartRisR c u | uartMisR c u | uartIcrR c u | uartDmacrR c u => cases hc; cases hd; exact readUart_ends (hu u rfl)
  | uartIlprW c u v | uartIbrdW c u v | uartFbrdW c u v | uartLcrhW c u v | uartCrW c u v | uartIflsW c u v | uartImscW c u v
  | uartIcrW c u v | uartDmacrW c u v => cases hc; cases hd; exact writeUart_ends (hu u rfl)
  | uartEcrW c u v | uartFrW c u v | uartRisW c u v | uartMisW c u v => cases hc; cases hd; exact ignoreUart_ends (hu u rfl)
  | gpioStatusR c | gpioCtrlR c | gpioIntrR c | gpioP0inteR c | gpioP0intsR c | gpioP1inteR c | gpioP1intsR c =>
    cases hc; cases hd; exact readReg_ends
  | gpioCtrlW c | gpioIntrW c | gpioP0inteW c | gpioP1inteW c => cases hc; cases hd; exact writeGpio_ends
  | gpioStatusW c | gpioP0intsW c | gpioP1intsW c => cases hc; cases hd; exact ignoreReg_ends
  | gpioReserved c | timerReserved c => cases hc; cases hd; exact guestError_ends
  | timerTimehrR c => cases hc; cases hd; exact ⟨_, rfl, _, rfl⟩
  | timerTimehwR c | timerTimelwR c | timerTimelrR c | timerAlarmR c | timerArmedR c | timerRawhR c | timerRawlR c | timerPauseR c
  | timerIntrR c | timerInteR c | timerIntsR c => cases hc; cases hd; exact readReg_ends
  | timerTimelwW c | timerAlarmW c | timerArmedW c | timerPauseW c | timerIntrW c | timerInteW c =>
    cases hc; cases hd; exact writeTimer_ends
  | timerTimehwW c | timerTimehrW c | timerTimelrW c | timerRawhW c | timerRawlW c | timerIntsW c =>
    cases hc; cases hd; exact ignoreReg_ends
  | busR8 | busR16 | busR32 | busW8 | busW16 | busW32 | uartRx | uartCapacity | gpioReport | clockAdvance | hostReset
  | hostSnapshot | hostRestore => cases hc

/-- A UART window belongs to one of the UARTs the composition has (20_memory.md R81). -/
theorem Config.region_uart {cfg : Config} {r : Region} (hr : r ∈ cfg.regions) (hk : r.kind = .device (.uart u)) :
    u < cfg.uartCount := by
  rcases Config.mem_regions.1 hr with rfl | rfl | rfl | ⟨u', base, hbase, rfl⟩ | rfl | rfl | ⟨w, -, rfl⟩
  case inr.inr.inr.inl =>
    cases hk
    exact (List.getElem?_eq_some_iff.1 hbase).1
  all_goals cases hk

/-- The register operation a transaction is decoded to ends for its core: its UART exists in a composed state. -/
theorem decodeSel_endsAccess {a v : Word} {w : BusWidth} {port : DevPort} {off : BitVec 12} (hcomposed : s.composed)
    (hdec : decodeAddr s.cfg a w = .dev port off) (dir : Dir) :
    EndsAccess dir c (exec (decodeSel port (selector dir off) c v) s) := by
  obtain ⟨hcore, huart⟩ := decodeSel_addressed port (selector dir off) c v
  have hdir := (decodeSel_directed port (selector dir off) c v).2
  rw [selDir_selector] at hdir
  refine exec_endsAccess hcore hdir fun u hu => ?_
  obtain ⟨-, -, r, hr, hk, -⟩ := decodeAddr_dev hdec
  rw [huart] at hu
  cases port with
  | uart u' =>
    cases hu
    rw [hcomposed.2.1]
    exact Config.region_uart hr hk
  | gpio => cases hu
  | timer => cases hu

/-- The read path always ends with a value for its core (00_scope.md R13). -/
theorem busRead_ends (hcomposed : s.composed) (a : Word) (w : BusWidth) : EndsAccess .read c (busRead c a w s) := by
  unfold busRead
  split
  · exact guestError_ends
  · exact guestError_ends
  · exact ⟨_, rfl, _, rfl⟩
  · next port off hdec =>
    rw [devRead_eq]
    exact decodeSel_endsAccess hcomposed hdec .read

/-- The write path always ends with its completion (00_scope.md R13). -/
theorem busWrite_ends (hcomposed : s.composed) (a : Word) (w : BusWidth) (v : Word) : EndsAccess .write c (busWrite c a w v s) := by
  unfold busWrite
  split
  · exact guestError_ends
  · exact guestError_ends
  · exact ⟨_, rfl, rfl⟩
  · exact guestError_ends
  · next port off hdec =>
    rw [devWrite_eq]
    exact decodeSel_endsAccess hcomposed hdec .write

/-- Settles O44: each transaction is the read or the write path at one width. -/
theorem noBusTransactionBlocks : Obligations.NoBusTransactionBlocks := by
  intro c a v s hcomposed
  have hread (w : BusWidth) := endsAccess_read.1 (busRead_ends (c := c) hcomposed a w)
  have hwrite (w : BusWidth) := endsAccess_write.1 (busWrite_ends (c := c) hcomposed a w v)
  exact ⟨hread .byte, hread .half, hread .word, hwrite .byte, hwrite .half, hwrite .word⟩

end Sys2Proof.Machine

/-! A write done twice: what a stored value, a cleared bit and an alarm evaluation make of being done again. -/

namespace Sys2Proof.Machine

variable {s t : State} {c : CoreId} {u : Nat}

/-- A UART register write is idempotent where its function is. -/
theorem writeUart_twice {f : Uart → Uart} (hf : ∀ U, f (f U) = f U) (h : writeUart c u s f = .next t) :
    writeUart c u t f = .next t := by
  obtain ⟨U, hU, rfl⟩ := writeUart_next.1 h
  have hlt : u < s.uarts.length := (List.getElem?_eq_some_iff.1 hU).1
  refine writeUart_next.2 ⟨f U, List.getElem?_set_self hlt, ?_⟩
  simp only [hf, State.setUart, State.complete, List.set_set]

/-- A GPIO register write is idempotent where its function is. -/
theorem writeGpio_twice {f : Gpio → Gpio} (hf : ∀ g, f (f g) = f g) (h : writeGpio c s (f s.gpio) = .next t) :
    writeGpio c t (f t.gpio) = .next t := by
  cases writeGpio_next.1 h
  refine writeGpio_next.2 ?_
  simp only [hf, State.setGpio, State.complete]

/-- A timer register write is idempotent where its function is, at the clock's time. -/
theorem writeTimer_twice {f : Time → Timer → Timer} (hf : ∀ now T, f now (f now T) = f now T)
    (h : writeTimer c s (f s.clockNow s.timer) = .next t) : writeTimer c t (f t.clockNow t.timer) = .next t := by
  cases writeTimer_next.1 h
  refine writeTimer_next.2 ?_
  simp only [hf, State.setTimer, State.complete]

/-- Clearing bits already cleared changes nothing. -/
theorem and_and_self {n : Nat} (x y : BitVec n) : x &&& y &&& y = x &&& y := by
  rw [BitVec.and_assoc, BitVec.and_self]

/-- Clearing bits of one register of four, twice. -/
theorem set_and_twice (xs : Vector Word 4) (r : Fin 4) (y : Word) :
    (xs.set r (xs[r] &&& y)).set r ((xs.set r (xs[r] &&& y))[r] &&& y) = xs.set r (xs[r] &&& y) := by
  rw [Vector.get_set_fin, if_pos rfl, and_and_self, Vector.set_set]

/-- Once the due alarms have fired, none is due. -/
theorem Timer.dueMask_fireDue (T : Timer) (now : Time) : (T.fireDue now).dueMask now = 0#4 := by
  refine BitVec.eq_of_getLsbD_eq fun k hk => ?_
  have hdue : (T.fireDue now).due now ⟨k, hk⟩ = false := by
    rw [Timer.due, Timer.fireDue_armed T now ⟨k, hk⟩, Timer.fireDue_target]
    simp
  exact (Timer.dueMask_getLsbD _ now ⟨k, hk⟩).trans (hdue.trans BitVec.getLsbD_zero.symm)

theorem Timer.evalAlarms_of_dueMask {T : Timer} {now : Time} (h : T.dueMask (T.counter now) = 0#4) : T.evalAlarms now = T := by
  simp only [Timer.evalAlarms, Timer.fireDue, h, BitVec.not_zero, BitVec.and_allOnes, BitVec.or_zero]

theorem Timer.evalAlarms_evalAlarms (T : Timer) (now : Time) : (T.evalAlarms now).evalAlarms now = T.evalAlarms now :=
  Timer.evalAlarms_of_dueMask (Timer.dueMask_fireDue T (T.counter now))

/-- A pause or resume of a timer that already is so does nothing. -/
theorem Timer.setPaused_of_paused {T : Timer} {p : Bool} (h : T.paused = p) (now : Time) : T.setPaused now p = T := by
  subst h
  cases hp : T.paused <;> simp [Timer.setPaused, hp]

/-- A PAUSE write done twice: the flag already has its value and no alarm is due any more (44_timer.md R329). -/
theorem Timer.pauseWrite_twice (p : Bool) (now : Time) (T : Timer) :
    (((T.setPaused now p).evalAlarms now).setPaused now p).evalAlarms now = (T.setPaused now p).evalAlarms now := by
  have hp : ((T.setPaused now p).evalAlarms now).paused = p := Timer.setPaused_paused T now p
  rw [Timer.setPaused_of_paused hp, Timer.evalAlarms_evalAlarms]

/-- Settles O47: each of these writes applies an idempotent function to its device. -/
theorem clearAndStoreWritesAreIdempotent : Obligations.ClearAndStoreWritesAreIdempotent := by
  intro i s t hi h
  cases i with
  | uartIlprW c u v | uartIbrdW c u v | uartFbrdW c u v | uartLcrhW c u v | uartCrW c u v | uartIflsW c u v | uartImscW c u v
  | uartDmacrW c u v => exact writeUart_twice (fun _ => rfl) h
  | uartIcrW c u v => exact writeUart_twice (fun U => by simp only [Uart.clear, and_and_self]) h
  | gpioCtrlW c p v =>
    exact writeGpio_twice (f := fun g => { g with funcsel := g.funcsel.set p (lowBits 5 v) })
      (fun g => by simp only [Vector.set_set]) h
  | gpioIntrW c r v =>
    exact writeGpio_twice (f := fun g => { g with intr := g.intr.set r (g.intr[r] &&& ~~~(v &&& intrMask r)) })
      (fun g => by simp only [set_and_twice]) h
  | gpioP0inteW c r v =>
    exact writeGpio_twice (f := fun g => { g with inte0 := g.inte0.set r (v &&& intrMask r) })
      (fun g => by simp only [Vector.set_set]) h
  | gpioP1inteW c r v =>
    exact writeGpio_twice (f := fun g => { g with inte1 := g.inte1.set r (v &&& intrMask r) })
      (fun g => by simp only [Vector.set_set]) h
  | timerArmedW c v =>
    exact writeTimer_twice (f := fun _ T => { T with armed := T.armed &&& ~~~(lowBits 4 v) })
      (fun now T => by simp only [and_and_self]) h
  | timerIntrW c v =>
    exact writeTimer_twice (f := fun _ T => { T with intr := T.intr &&& ~~~(lowBits 4 v) })
      (fun now T => by simp only [and_and_self]) h
  | timerInteW c v => exact writeTimer_twice (f := fun _ T => { T with inte := lowBits 4 v }) (fun _ _ => rfl) h
  | timerPauseW c v =>
    exact writeTimer_twice (f := fun now T => (T.setPaused now (v.getLsbD 0)).evalAlarms now)
      (Timer.pauseWrite_twice (v.getLsbD 0)) h
  | _ => exact hi.elim

end Sys2Proof.Machine

/-! What no operation changes: the configuration, the queue, the clock but by an advance, and the counter but by the operations that
set it. -/

namespace Sys2Proof.Machine

variable {s t : State} {i : Instr}

/-! The configuration, the queue and the clock. -/

/-- No register access changes the configuration, the queue or the clock. -/
theorem DeviceEffect.cfg_pending_clockNow (e : DeviceEffect s i t) :
    t.cfg = s.cfg ∧ t.pending = s.pending ∧ t.clockNow = s.clockNow := by
  cases e with
  | reserved _ c dir a v => exact ⟨State.guestError_cfg .., State.guestError_pending .., State.guestError_clockNow ..⟩
  | _ => exact ⟨rfl, rfl, rfl⟩

theorem Effect.cfg_pending (e : Effect s i t) : t.cfg = s.cfg ∧ t.pending = s.pending := by
  cases e with
  | device _ _ hi hd | deviceRead c a port off hdec j hsel _ hj hdir hd | deviceWritten c a v port off hdec j hsel _ hj hdir hd =>
    obtain ⟨hcfg, hpending, -⟩ := hd.cfg_pending_clockNow
    exact ⟨hcfg, hpending⟩
  | guestError => exact ⟨State.guestError_cfg .., State.guestError_pending ..⟩
  | _ => exact ⟨rfl, rfl⟩

/-- The clock stands still, or an advance moves it to its own time, which is not earlier. -/
theorem Effect.clockNow (e : Effect s i t) :
    t.clockNow = s.clockNow ∨ ∃ x, i = .clockAdvance x ∧ s.clockNow ≤ x ∧ t.clockNow = x := by
  cases e with
  | advanced x hx => exact .inr ⟨x, rfl, hx, rfl⟩
  | device _ _ hi hd | deviceRead c a port off hdec j hsel _ hj hdir hd | deviceWritten c a v port off hdec j hsel _ hj hdir hd =>
    obtain ⟨-, -, hclock⟩ := hd.cfg_pending_clockNow
    exact .inl hclock
  | guestError => exact .inl (State.guestError_clockNow ..)
  | _ => exact .inl rfl

/-- Settles O60, by the cases of what an operation can do. -/
theorem operationsKeepConfigurationAndQueue : Obligations.OperationsKeepConfigurationAndQueue :=
  fun _ _ _ h => (effect_of_exec h).cfg_pending

/-- Settles O35: an advance is accepted only to a time not before the clock, and nothing else moves it. -/
theorem clockMovesForwardByAdvanceOnly : Obligations.ClockMovesForwardByAdvanceOnly := by
  intro i s t h
  rcases (effect_of_exec h).clockNow with hsame | ⟨x, rfl, hle, hx⟩
  · exact ⟨hsame ▸ BitVec.le_refl _, fun _ => hsame⟩
  · exact ⟨hx ▸ hle, fun hne => absurd rfl (hne x)⟩

/-! The counter. -/

/-- The counter is a function of the timer and the clock (10_state.md R61). -/
theorem State.counter_congr (htimer : t.timer = s.timer) (hclock : t.clockNow = s.clockNow) : t.counter = s.counter := by
  rw [State.counter, htimer, hclock, State.counter]

/-- A guest error changes neither the timer nor the clock. -/
theorem State.guestError_counter {kind : GuestErrorKind} {c : CoreId} {dir : Dir} {a v : Word} {w : BusWidth} :
    (s.guestError kind c dir a w v).counter = s.counter :=
  State.counter_congr (State.guestError_timer ..) (State.guestError_clockNow ..)

/-- While running, the counter goes as far as the clock; while paused it stands (10_state.md R61). -/
theorem Timer.counter_eq_add (T : Timer) (now x : Time) :
    T.counter x = if T.paused then T.counter now else T.counter now + (x - now) := by
  cases hp : T.paused with
  | true => simp [Timer.counter, hp]
  | false =>
    simp only [Timer.counter, hp]
    exact (sub_add_sub_cancel' now T.base x).symm

/-- The one thing a clock advance does, and when it is accepted (44_timer.md R340). -/
theorem exec_clockAdvance_next {x : Time} (h : exec (.clockAdvance x) s = .next t) :
    s.clockNow ≤ x ∧ t = ((s.setClock x).setTimer (s.timer.evalAlarms x)).setReply .done := by
  cases effect_of_exec h with
  | advanced _ hx => exact ⟨hx, rfl⟩
  | device _ _ hi | memoryRead _ hi | guestError _ _ _ _ _ _ _ hi | memoryWritten _ hi => cases hi

/-- Only a TIMELW write changes the counter: arming fires alarms, and a pause or resume keeps its value (44_timer.md R329). -/
theorem DeviceEffect.counter_eq (e : DeviceEffect s i t) (hne : ∀ c v, i ≠ .timerTimelwW c v) : t.counter = s.counter := by
  cases e with
  | rebased c v => exact absurd rfl (hne c v)
  | paused c v => exact Timer.setPaused_counter ..
  | reserved => exact State.guestError_counter
  | _ => rfl

/-- Settles O30: an advance leaves the timer's base, flag and frozen value, and the counter is read at the new time. -/
theorem counterFollowsTheClock : Obligations.CounterFollowsTheClock := by
  intro x s t h
  obtain ⟨-, rfl⟩ := exec_clockAdvance_next h
  exact Timer.counter_eq_add s.timer s.clockNow x

/-- Settles O31: over the bus too only the selector of TIMELW reaches a TIMELW write, and no read transaction does. -/
theorem counterIsMovedByNothingElse : Obligations.CounterIsMovedByNothingElse := by
  intro i s t h hadvance htimelw hbus hreset hrestore
  cases effect_of_exec h with
  | device _ _ hi hd => exact hd.counter_eq htimelw
  | deviceRead c a port off hdec j hsel _ hj hdir hd =>
    refine hd.counter_eq ?_
    rintro c' v' rfl
    cases hdir
  | deviceWritten c a v port off hdec j hsel _ hj hdir hd =>
    refine hd.counter_eq fun c' v' heq => ?_
    obtain ⟨rfl, rfl⟩ := decodeSel_timelw (hsel.trans heq)
    exact hbus c a v rfl hdec
  | guestError => exact State.guestError_counter
  | advanced x hx => exact absurd rfl (hadvance x)
  | reset => exact absurd rfl hreset
  | restored snap hfit hn => exact absurd rfl (hrestore snap)
  | _ => rfl

end Sys2Proof.Machine

/-! The FIFO cursors of every reachable state, and of a state a restore leaves. -/

namespace Sys2Proof.Machine

variable {s t : State}

/-- Every UART is at its reset column, both cursors at 0. -/
theorem State.cursorsAgree_powerOn (cfg : Config) (x : Time) (m : Memory) : (State.powerOn cfg x m).cursorsAgree := by
  intro U hU
  rw [List.eq_of_mem_replicate hU]
  exact Uart.cursorsAgree_reset

/-- A composition that has an initial state starts at power-on (60_exceptions.md R404). -/
theorem State.eq_powerOn_of_init {cfg : Config} {x : Time} {m : Memory} (h : State.init cfg x m = some s) :
    s = State.powerOn cfg x m := by
  unfold State.init at h
  split at h
  · exact (Option.some.inj h).symm
  · cases h

/-- The one thing a restore does when it is accepted (70_reset_and_hazards.md R451). -/
theorem exec_hostRestore_next {snap : Snapshot} (h : exec (.hostRestore snap) s = .next t) :
    t = (s.restoreDevices snap).setReply .done := by
  cases effect_of_exec h with
  | restored => rfl
  | device _ _ hi | memoryRead _ hi | guestError _ _ _ _ _ _ _ hi | memoryWritten _ hi => cases hi

/-- A restore copies the cursors as the record has them (log entry 13). -/
theorem cursorsAgree_restore_iff {snap : Snapshot} (h : exec (.hostRestore snap) s = .next t) :
    t.cursorsAgree ↔ ∀ U ∈ snap.uarts, U.cursorsAgree := by
  obtain rfl := exec_hostRestore_next h
  exact List.forall_mem_map

/-- The cursors agree in every reachable state, by induction on the run (10_state.md R34, second sentence). -/
theorem State.Reachable.cursorsAgree (h : s.Reachable) : s.cursorsAgree := by
  induction h with
  | powerOn cfg x m s hinit =>
    rw [State.eq_powerOn_of_init hinit]
    exact State.cursorsAgree_powerOn cfg x m
  | operation i s t _ hne he ih => exact exec_keeps_cursorsAgree ih (fun snap hi => absurd hi (hne snap)) he
  | restoredSnapshot r s t _ _ he ihr _ => exact (cursorsAgree_restore_iff he).2 ihr
  | restoredRecord snap s t _ hsnap he _ => exact (cursorsAgree_restore_iff he).2 hsnap

/-- Settles O59: the induction over runs, each operation's own step, and what a restore and a snapshot copy. -/
theorem cursorsAgreeIsKept : Obligations.CursorsAgreeIsKept :=
  ⟨fun _ h => h.cursorsAgree,
    fun _ _ _ h hne he => exec_keeps_cursorsAgree h (fun snap hi => absurd hi (hne snap)) he,
    fun _ _ _ he => cursorsAgree_restore_iff he,
    fun _ h => h⟩

end Sys2Proof.Machine

/-! Registers that read a value and change nothing but the reply. -/

namespace Sys2Proof.Machine

/-- UARTFR by the length of the FIFO: empty, full, or between (10_state.md R38). -/
theorem Uart.flagWord_eq (U : Uart) :
    U.flagWord = if U.fifoLen = 0 then 0x90 else if U.fifoLen = 32 then 0xC0 else 0x80 := by
  unfold Uart.flagWord fifoCapacity
  by_cases hempty : U.fifoLen = 0
  · simp [hempty]
  · by_cases hfull : U.fifoLen = 32 <;> simp [hempty, hfull]

/-- Settles O10: each row is a plain read or an ignored write of a UART that exists. -/
theorem uartStatusAndFlagRegisters : Obligations.UartStatusAndFlagRegisters := by
  intro c u v s U hU
  have hignored : ignoreUart c u s = .next (s.complete c) := ignoreUart_next.2 ⟨⟨U, hU⟩, rfl⟩
  have hread (f : Uart → Word) : readUart c u s f = .next (s.answer c (f U)) := readUart_next.2 ⟨U, hU, rfl⟩
  refine ⟨⟨rfl, hread fun _ => 0⟩, ⟨rfl, hignored⟩, ⟨rfl, ?_⟩, ⟨rfl, hignored⟩⟩
  rw [← Uart.flagWord_eq]
  exact hread Uart.flagWord

/-- The selectors of the four ALARM reads choose one row, which reads the alarm's number off the offset (30_encoding.md R124). -/
theorem timerAlarmR_row : ∀ k : Fin 4,
    (selRows .timer).findIdx? (·.applies (BitVec.ofNat 13 (0x0010 + 4 * k.val))) = some 8 ∧
    regOf (selOffset (BitVec.ofNat 13 (0x0010 + 4 * k.val))) = k := by decide

/-- ALARMk is read at 0x010 + 4k (10_state.md R62). -/
theorem decodeSel_timerAlarmR (c : CoreId) (v : Word) (k : Fin 4) :
    decodeSel .timer (BitVec.ofNat 13 (0x0010 + 4 * k.val)) c v = .timerAlarmR c k := by
  obtain ⟨hrow, hk⟩ := timerAlarmR_row k
  rw [decodeSel_of_findIdx c v hrow rfl]
  exact congrArg (Instr.timerAlarmR c) hk

/-- The pause flag as the word PAUSE reads (44_timer.md R328). -/
theorem zext32_ofBool (b : Bool) : zext32 (BitVec.ofBool b) = if b then 1 else 0 := by cases b <;> rfl

/-- Settles O22: each row answers its value and leaves the state, PAUSE the flag as a word. -/
theorem timerPlainReads : Obligations.TimerPlainReads := by
  intro c k v s
  refine ⟨rfl, ⟨rfl, rfl⟩, ⟨rfl, rfl⟩, ⟨decodeSel_timerAlarmR c v k, rfl⟩, ⟨rfl, rfl⟩, ⟨rfl, rfl⟩, ⟨rfl, rfl⟩, ⟨rfl, rfl, ?_⟩,
    ⟨rfl, rfl⟩, ⟨rfl, rfl, rfl⟩, ⟨rfl, rfl⟩⟩
  rw [← zext32_ofBool]
  rfl

end Sys2Proof.Machine

/-! The dispatcher: which region an address lies in, and that no other region of a checked composition holds it. -/

namespace Sys2Proof.Machine

variable {cfg : Config} {a : Word} {w : BusWidth} {r : Region}

/-- The alignment check comes first (20_memory.md R83). -/
theorem decodeAddr_of_misaligned (h : a.toNat % widthBytes w ≠ 0) : decodeAddr cfg a w = .err .misaligned := if_pos h

/-- An aligned access leads to the first region that holds it (20_memory.md R83). -/
theorem decodeAddr_of_find? (hal : a.toNat % widthBytes w = 0)
    (hr : cfg.regions.find? (regionHolds a.toNat (widthBytes w)) = some r) : decodeAddr cfg a w = regionTarget r a.toNat w := by
  simp only [decodeAddr, hal, ne_eq, not_true_eq_false, if_false, hr]

/-- An aligned access no region holds leads nowhere (20_memory.md R83). -/
theorem decodeAddr_of_unmapped (hal : a.toNat % widthBytes w = 0)
    (h : cfg.regions.find? (regionHolds a.toNat (widthBytes w)) = none) : decodeAddr cfg a w = .err .unmapped := by
  simp only [decodeAddr, hal, ne_eq, not_true_eq_false, if_false, h]

theorem regionHolds_iff {a n : Nat} : regionHolds a n r = true ↔ r.base ≤ a ∧ a + n - 1 ≤ r.base + r.size - 1 := by
  simp only [regionHolds, Bool.and_eq_true, decide_eq_true_eq]

theorem Config.pairwiseDisjoint_iff {rs : List Region} :
    Config.pairwiseDisjoint rs = true ↔ rs.Pairwise fun x y => x.disjoint y = true := by
  induction rs with
  | nil => simp [Config.pairwiseDisjoint]
  | cons r rest ih => simp [Config.pairwiseDisjoint, ih]

theorem Region.disjoint_symm : Std.Symm fun x y : Region => x.disjoint y = true :=
  ⟨fun _ _ h => (Bool.or_comm ..).trans h⟩

/-- Check (1) of 00_scope.md R9: in a composition that passes the checks, regions that share an address are the same. -/
theorem Config.region_unique (hok : cfg.ok = true) {x y : Region} (hx : x ∈ cfg.regions) (hy : y ∈ cfg.regions) {b : Nat}
    (hbx : x.base ≤ b ∧ b < x.base + x.size) (hby : y.base ≤ b ∧ b < y.base + y.size) : x = y := by
  simp only [Config.ok, Bool.and_eq_true] at hok
  obtain ⟨⟨⟨⟨⟨hpair, -⟩, -⟩, -⟩, -⟩, -⟩ := hok
  by_contra hne
  have hsymm := Region.disjoint_symm
  have hdisj : x.disjoint y = true := (Config.pairwiseDisjoint_iff.1 hpair).forall hx hy hne
  simp only [Region.disjoint, Bool.or_eq_true, decide_eq_true_eq] at hdisj
  omega

/-- Checks (2) and (3) of 00_scope.md R9 make every region a positive number of words. -/
theorem Region.words_of_shapeOk (h : r.shapeOk = true) : 0 < r.size ∧ r.size % 4 = 0 ∧ r.base % 4 = 0 := by
  unfold Region.shapeOk windowSize at h
  split at h <;> simp only [Bool.and_eq_true, decide_eq_true_eq] at h <;> omega

/-- A region made of words holds an aligned access exactly when the access's address lies in it: no access straddles its end. -/
theorem regionHolds_iff_of_aligned {a : Nat} (hr : r.shapeOk = true) (hal : a % widthBytes w = 0) :
    regionHolds a (widthBytes w) r = true ↔ r.base ≤ a ∧ a < r.base + r.size := by
  obtain ⟨hpos, hsize, hbase⟩ := Region.words_of_shapeOk hr
  rw [regionHolds_iff]
  cases w <;> simp only [widthBytes] at hal ⊢ <;> omega

/-- In a composition that passes the checks, the region an aligned access's address lies in is the one the dispatcher finds. -/
theorem Config.find?_region (hok : cfg.ok = true) (hr : r ∈ cfg.regions) {a : Nat} (hal : a % widthBytes w = 0)
    (ha : r.base ≤ a ∧ a < r.base + r.size) : cfg.regions.find? (regionHolds a (widthBytes w)) = some r := by
  have hiff {x : Region} (hx : x ∈ cfg.regions) := regionHolds_iff_of_aligned (Config.shapeOk_of_ok hok hx) hal
  have hsome : (cfg.regions.find? (regionHolds a (widthBytes w))).isSome = true :=
    List.find?_isSome.2 ⟨r, hr, (hiff hr).2 ha⟩
  obtain ⟨x, hx⟩ := Option.isSome_iff_exists.1 hsome
  have hmem := List.mem_of_find?_eq_some hx
  rw [hx, Config.region_unique hok hmem hr ((hiff hmem).1 (List.find?_some hx)) ha]

/-- Settles O36: the misaligned case, the case no region holds, and the one region that does. -/
theorem dispatcherDecodesByRegion : Obligations.DispatcherDecodesByRegion := by
  intro cfg a w
  refine ⟨decodeAddr_of_misaligned, fun hal => ⟨fun hnone => ?_, fun hok r hr hlo hhi => ?_⟩⟩
  · exact decodeAddr_of_unmapped hal (List.find?_eq_none.2 fun r hr hholds => hnone r hr (regionHolds_iff.1 hholds))
  · exact decodeAddr_of_find? hal (Config.find?_region hok hr hal ⟨hlo, hhi⟩)

/-- Settles O37: each place of the default map is one closed fact about the dispatcher. -/
theorem defaultAddressMap : Obligations.DefaultAddressMap := by
  unfold Obligations.DefaultAddressMap
  decide

end Sys2Proof.Machine

/-! Bus transactions that reach memory: the bytes a read assembles, and the bytes a store sets and keeps. -/

namespace Sys2Proof.Machine

variable {c : CoreId} {a v : Word} {w : BusWidth} {s : State} {m : MemKind} {off : Nat}

/-- A read that reaches memory answers the value there (41_bus.md R150). -/
theorem busRead_of_mem (h : decodeAddr s.cfg a w = .mem m off) :
    busRead c a w s = .next (s.answer c (s.memRead m off w)) := by
  simp only [busRead, h]

/-- A write that reaches SRAM stores its data and completes (41_bus.md R151). -/
theorem busWrite_of_sram (h : decodeAddr s.cfg a w = .mem .sram off) :
    busWrite c a w v s = .next ((s.memWrite off w v).complete c) := by
  simp only [busWrite, h]

theorem wordOfBytesLE_one (b : Byte) : wordOfBytesLE [b] = b.setWidth 32 := by simp [wordOfBytesLE]

theorem State.memRead_byte (s : State) (m : MemKind) (off : Nat) : s.memRead m off .byte = (s.memByte m off).setWidth 32 :=
  wordOfBytesLE_one _

theorem State.memRead_half (s : State) (m : MemKind) (off : Nat) :
    s.memRead m off .half = (s.memByte m (off + 1) ++ s.memByte m off).setWidth 32 :=
  wordOfBytesLE_two _ _

theorem State.memRead_word (s : State) (m : MemKind) (off : Nat) :
    s.memRead m off .word = s.memByte m (off + 3) ++ s.memByte m (off + 2) ++ s.memByte m (off + 1) ++ s.memByte m off :=
  wordOfBytesLE_four _ _ _ _

/-- A byte stored in SRAM is the one read there (20_memory.md R91). -/
theorem State.memByte_sram_of_mem {b : Byte} (hwf : s.sram.wf) (h : (off, b) ∈ s.sram) : s.memByte .sram off = b := by
  rw [State.memByte, Memory.lookup_of_mem hwf h, Option.getD_some]

/-- Where nothing is stored, SRAM reads its power-on draw (10_state.md R71). -/
theorem State.memByte_sram_of_not_mem (h : ∀ b : Byte, (off, b) ∉ s.sram) : s.memByte .sram off = Config.sramPowerOn off := by
  rw [State.memByte, Memory.lookup_of_not_mem h, Option.getD_none]

/-- Settles O38: what a byte of each region is, and how a read of each width puts its bytes together. -/
theorem busReadsOfMemory : Obligations.BusReadsOfMemory := by
  refine ⟨Image.byte_given, fun _ _ _ => rfl,
    fun s off => ⟨rfl, rfl, fun _ => State.memByte_sram_of_mem, State.memByte_sram_of_not_mem⟩,
    fun c a s m off => ⟨fun h => ?_, fun h => ?_, fun h => ?_⟩⟩
  · rw [← State.memRead_byte]
    exact busRead_of_mem h
  · rw [← State.memRead_half]
    exact busRead_of_mem h
  · rw [← State.memRead_word]
    exact busRead_of_mem h

/-- A store leaves every byte of memory outside it as it was (20_memory.md R92). -/
theorem State.memByte_memWrite_frame {x : Nat} (h : m ≠ .sram ∨ x < off ∨ off + widthBytes w ≤ x) :
    (s.memWrite off w v).memByte m x = s.memByte m x := by
  by_cases hm : m = .sram
  · subst hm
    exact State.memByte_memWrite_sram_outside s off w v (h.resolve_left fun hne => hne rfl)
  · exact State.memByte_memWrite_other s off w v hm x

/-- A write of any width to SRAM: the next state, the bytes it sets, and the bytes it keeps (20_memory.md R92). -/
theorem busWrite_sram_stores (h : decodeAddr s.cfg a w = .mem .sram off) : ∃ mem : Memory,
    busWrite c a w v s = .next { s with sram := mem, reply := .written c } ∧
    (∀ j : Nat, j < widthBytes w → { s with sram := mem }.memByte .sram (off + j) = v.extractLsb' (8 * j) 8) ∧
    ∀ (m : MemKind) (x : Nat), m ≠ .sram ∨ x < off ∨ off + widthBytes w ≤ x → { s with sram := mem }.memByte m x = s.memByte m x :=
  ⟨(s.memWrite off w v).sram, busWrite_of_sram h, fun _ hj => State.memByte_memWrite_sram_inside s off w v hj,
    fun _ _ hx => State.memByte_memWrite_frame hx⟩

/-- Settles O39: the write path at each width; the one byte of a byte write is byte 0. -/
theorem busWritesOfSram : Obligations.BusWritesOfSram := by
  intro c a v s off
  refine ⟨fun h => ?_, busWrite_sram_stores (w := .half), busWrite_sram_stores (w := .word)⟩
  obtain ⟨mem, hnext, hin, hout⟩ := busWrite_sram_stores (c := c) (v := v) h
  refine ⟨mem, hnext, hin 0 Nat.zero_lt_one, fun m x hx => hout m x (hx.imp_right fun hne => ?_)⟩
  simp only [widthBytes]
  omega

end Sys2Proof.Machine

/-! The RESERVED rows of the three devices as one operation by port, and what a selector names by whether its offset is in the
device's register map (30_encoding.md R125, R127). -/

namespace Sys2Proof

open Machine

variable {port : DevPort} {dir : Dir} {off : BitVec 12} {c : CoreId} {v w : Word}

/-- The RESERVED row of a device. -/
def Instr.reserved : DevPort → CoreId → Dir → BitVec 12 → Word → Instr
  | .uart u => fun c => .uartReserved c u
  | .gpio => .gpioReserved
  | .timer => .timerReserved

/-- The write data an access carries: 0 for a read (30_encoding.md R120). -/
def accessData : Dir → Word → Word
  | .read, _ => 0
  | .write, v => v

theorem readDataZero_iff : readDataZero dir v = true ↔ accessData dir v = v := by
  cases dir with
  | read => exact beq_iff_eq.trans eq_comm
  | write => exact ⟨fun _ => rfl, fun _ => rfl⟩

@[simp] theorem accessData_accessData : accessData dir (accessData dir v) = accessData dir v := by cases dir <;> rfl

theorem reservedRow_eq : reservedRow port dir off c v = .reserved port c dir off (accessData dir v) := by
  cases port <;> cases dir <;> rfl

theorem wellFormed_reserved_iff :
    (Instr.reserved port c dir off w).wellFormed = true ↔ listedOffset port off = false ∧ accessData dir w = w := by
  rw [← readDataZero_iff]
  cases port <;> simp [Instr.reserved, Instr.wellFormed, listedOffset]

/-- The operation is the RESERVED row of some device. -/
def Instr.isReserved : Instr → Bool
  | .uartReserved .. | .gpioReserved .. | .timerReserved .. => true
  | _ => false

@[simp] theorem isReserved_reserved : (Instr.reserved port c dir off w).isReserved = true := by cases port <;> rfl

/-- The rows of a device other than the catch-all name well-formed operations, and none of them a RESERVED row. -/
theorem selRows_op (port : DevPort) :
    ∀ row ∈ selRows port, ∀ a, (row.op a).wellFormed = true ∧ (row.op a).isReserved = false := by
  cases port <;>
    (repeat' refine List.forall_mem_cons.2 ⟨fun a => ⟨rfl, rfl⟩, ?_⟩) <;>
    exact fun _ h => absurd h List.not_mem_nil

theorem decodeSel_of_unlisted (h : listedOffset port off = false) :
    decodeSel port (selector dir off) c v = .reserved port c dir off (accessData dir v) := by
  rw [decodeSel_of_none c v (selRows_none (by rwa [selOffset_selector])), selDir_selector, selOffset_selector, reservedRow_eq]

theorem decodeSel_of_listed (h : listedOffset port off = true) :
    ∃ row ∈ selRows port, decodeSel port (selector dir off) c v = row.op ⟨c, portIndex port, off, v⟩ := by
  obtain ⟨i, hi⟩ := Option.isSome_iff_exists.1 (selRows_cover port dir off h)
  have hlt : i < (selRows port).length := (List.findIdx?_eq_some_iff_getElem.1 hi).1
  refine ⟨(selRows port)[i], List.getElem_mem hlt, ?_⟩
  rw [decodeSel_of_findIdx c v hi (List.getElem?_eq_getElem hlt), selOffset_selector]

/-- A selector names a well-formed operation: a RESERVED row with no data on a read, or a row of the register map. -/
theorem decodeSel_wellFormed (port : DevPort) (sel : BitVec 13) (c : CoreId) (v : Word) :
    (decodeSel port sel c v).wellFormed = true := by
  rw [← selector_parts sel]
  cases hl : listedOffset port (selOffset sel) with
  | false =>
    rw [decodeSel_of_unlisted hl, wellFormed_reserved_iff]
    exact ⟨hl, accessData_accessData⟩
  | true =>
    obtain ⟨row, hrow, hop⟩ := decodeSel_of_listed hl
    rw [hop]
    exact (selRows_op port row hrow _).1

theorem decodeSel_reserved_iff :
    (∃ w, decodeSel port (selector dir off) c v = .reserved port c dir off w) ↔ listedOffset port off = false := by
  refine ⟨fun ⟨w, hw⟩ => ?_, fun hl => ⟨_, decodeSel_of_unlisted hl⟩⟩
  by_contra hl
  obtain ⟨row, hrow, hop⟩ := decodeSel_of_listed (Bool.eq_true_of_not_eq_false hl)
  have hnot := (selRows_op port row hrow ⟨c, portIndex port, off, v⟩).2
  rw [← hop, hw, isReserved_reserved] at hnot
  cases hnot

/-- Settles O6: the statement of every device is one lemma over the port. -/
theorem reservedRowIsExactlyTheUnlistedOffsets : Obligations.ReservedRowIsExactlyTheUnlistedOffsets :=
  fun u _ _ _ _ =>
    ⟨decodeSel_reserved_iff (port := .uart u), decodeSel_reserved_iff (port := .gpio), decodeSel_reserved_iff (port := .timer)⟩

end Sys2Proof

/-! Decoding each format of record: transactions, selectors of the fixed and of the indexed registers, and events. -/

namespace Sys2Proof

open Machine

variable {port : DevPort} {sel : BitVec 13} {dir : Dir} {off : BitVec 12} {c : CoreId} {v w : Word} {i : Instr} {t : Txn} {e : Evt}

@[simp] theorem coreOfBit_bitOfCore (c : CoreId) : coreOfBit (bitOfCore c) = c := by cases c <;> rfl

/-! Transactions. -/

/-- A transaction written out from a header has that header (30_encoding.md R121). -/
theorem hdr_encodeTxn (m : BitVec 1) (addr v : Word) :
    ∀ hdr : BitVec 3, (⟨m, hdr.extractLsb' 2 1, hdr.extractLsb' 0 2, addr, v⟩ : Txn).hdr = hdr := by
  simp only [Txn.hdr]; decide

/-- The width code 11 is refused in both directions (30_encoding.md R126). -/
theorem decodeTxn_of_illegalWidth (h : t.wcode = 0b11) : decodeTxn t = .error .illegalWidth := by
  have hdr : t.hdr.toNat = 0b011 ∨ t.hdr.toNat = 0b111 := by
    rw [Txn.hdr, h]
    have bit : ∀ d : BitVec 1, (d ++ 0b11#2).toNat = 0b011 ∨ (d ++ 0b11#2).toNat = 0b111 := by decide
    exact bit t.dir
  rcases hdr with hdr | hdr <;> simp only [decodeTxn, hdr]

theorem decodeTxn_wellFormed (h : decodeTxn t = .ok i) : i.wellFormed = true := by
  unfold decodeTxn at h
  split at h <;> cases h <;> rfl

/-! Selectors. -/

theorem decode_encodeSel (h : decodeSel port sel c v = i) : decode (encodeSel port sel c v) = .ok i := by
  rw [encodeSel, decode, coreOfBit_bitOfCore, h]

theorem pinSelector_ofNat (n : Nat) (p : Fin 30) : pinSelector (BitVec.ofNat 13 n) p = BitVec.ofNat 13 (n + 8 * p.val) :=
  (BitVec.ofNat_add ..).symm

theorem regSelector_ofNat (n : Nat) (r : Fin 4) : regSelector (BitVec.ofNat 13 n) r = BitVec.ofNat 13 (n + 4 * r.val) :=
  (BitVec.ofNat_add ..).symm

/-- A register chosen by an index in its offset: the row at its place in the device's table, and the index read back. -/
theorem decodeSel_indexed {α : Type} {sel' : BitVec 13} {n : Nat} {pat mask : BitVec 13} {cond : BitVec 12 → Bool}
    {index : BitVec 12 → α} {x : α} (op : CoreId → α → Word → Instr) (hsel : sel' = sel)
    (hrow : (selRows port).findIdx? (·.applies sel) = some n) (hx : index (selOffset sel) = x)
    (hop : (selRows port)[n]? = some ⟨pat, mask, cond, fun a => op a.c (index a.off) a.v⟩) : decodeSel port sel' c v = op c x v := by
  rw [hsel, decodeSel_of_findIdx c v hrow hop, ← hx]

/-- The per-pin registers of the GPIO (30_encoding.md R131). -/
theorem decodeSel_pin (c : CoreId) (v : Word) (p : Fin 30) :
    decodeSel .gpio (pinSelector 0x0000 p) c v = .gpioStatusR c p ∧ decodeSel .gpio (pinSelector 0x1000 p) c v = .gpioStatusW c p v ∧
    decodeSel .gpio (pinSelector 0x0004 p) c v = .gpioCtrlR c p ∧ decodeSel .gpio (pinSelector 0x1004 p) c v = .gpioCtrlW c p v := by
  obtain ⟨statusR, statusW, ctrlR, ctrlW⟩ := gpioRows_pin p
  obtain ⟨pinSR, pinSW, pinCR, pinCW⟩ := pinOf_selectors p
  exact ⟨decodeSel_indexed (fun c p _ => .gpioStatusR c p) (BitVec.zero_add _) statusR pinSR rfl,
    decodeSel_indexed .gpioStatusW (pinSelector_ofNat 0x1000 p) statusW pinSW rfl,
    decodeSel_indexed (fun c p _ => .gpioCtrlR c p) (pinSelector_ofNat 0x0004 p) ctrlR pinCR rfl,
    decodeSel_indexed .gpioCtrlW (pinSelector_ofNat 0x1004 p) ctrlW pinCW rfl⟩

/-- A four-register family of the GPIO (30_encoding.md R131), by its first selector and its place in the table. -/
theorem decodeSel_gpioReg (n k : Nat) {pat mask : BitVec 13} {cond : BitVec 12 → Bool} (op : CoreId → Fin 4 → Word → Instr)
    (hmem : (n, k) ∈ fourRegRows) (hop : gpioRows[k]? = some ⟨pat, mask, cond, fun a => op a.c (regOf a.off) a.v⟩) (r : Fin 4) :
    decodeSel .gpio (regSelector (BitVec.ofNat 13 n) r) c v = op c r v := by
  obtain ⟨hrow, hr⟩ := gpioRows_reg r _ hmem
  exact decodeSel_indexed op (regSelector_ofNat n r) hrow hr hop

/-- The ALARM registers of the timer (30_encoding.md R132). -/
theorem decodeSel_alarmReg (c : CoreId) (v : Word) (k : Fin 4) :
    decodeSel .timer (regSelector 0x0010 k) c v = .timerAlarmR c k ∧
    decodeSel .timer (regSelector 0x1010 k) c v = .timerAlarmW c k v := by
  obtain ⟨-, rowW, -, regW⟩ := timerRows_alarm k
  exact ⟨(congrArg (decodeSel .timer · c v) (regSelector_ofNat 0x0010 k)).trans (decodeSel_timerAlarmR c v k),
    decodeSel_indexed .timerAlarmW (regSelector_ofNat 0x1010 k) rowW regW rfl⟩

/-- The record of a well-formed RESERVED row. -/
theorem decode_encode_reserved (h : (Instr.reserved port c dir off w).wellFormed = true) :
    decode (encodeSel port (selector dir off) c w) = .ok (.reserved port c dir off w) := by
  obtain ⟨hl, hw⟩ := wellFormed_reserved_iff.1 h
  refine decode_encodeSel ?_
  rw [decodeSel_of_unlisted hl, hw]

/-! Events. -/

/-- A record is taken as a snapshot exactly when it is a snapshot that fits, written out (70_reset_and_hazards.md R451). -/
theorem fitSnapshot_eq_some {x : RawSnapshot} {snap : Snapshot} :
    fitSnapshot x = some snap ↔ rawOfSnapshot snap = x ∧ snapshotFits snap = true := by
  rw [← fitFields_eq_some, fitSnapshot]
  cases fitFields x with
  | none => exact ⟨nofun, fun h => h.1⟩
  | some y =>
    simp only [Option.ite_none_right_eq_some, Option.some.injEq]
    constructor
    · rintro ⟨hfits, rfl⟩; exact ⟨rfl, hfits⟩
    · rintro ⟨rfl, hfits⟩; exact ⟨hfits, rfl⟩

theorem decodeEvt_uartRx (h : e.code = 0x1) :
    decodeEvt e = if e.bytes.isEmpty then .error .emptyDelivery else .ok (.uartRx e.u e.bytes) := by
  simp only [decodeEvt, h]; rfl

theorem decodeEvt_gpioReport (h : e.code = 0x3) :
    decodeEvt e = if h : e.pin < 30 then .ok (.gpioReport ⟨e.pin, h⟩ (e.lvl.getLsbD 0)) else .error .pinOutOfRange := by
  simp only [decodeEvt, h]; rfl

theorem decodeEvt_hostRestore {snap : Snapshot} (h : e.code = 0x7) (hs : fitSnapshot e.snap = some snap) :
    decodeEvt e = .ok (.hostRestore snap) := by
  simp only [decodeEvt, h, hs]; rfl

theorem decodeEvt_of_illegalCode (h : e.code = 0 ∨ 8 ≤ e.code) : decodeEvt e = .error .illegalEventCode := by
  have hcode : e.code.toNat = 0 ∨ 8 ≤ e.code.toNat := h.imp (congrArg BitVec.toNat) id
  unfold decodeEvt
  split
  iterate 7 · omega
  · rfl

theorem decodeEvt_wellFormed (h : decodeEvt e = .ok i) : i.wellFormed = true := by
  unfold decodeEvt at h
  split at h
  · split at h
    · cases h
    · next hne => cases h; simpa [Instr.wellFormed] using hne
  · cases h; rfl
  · split at h <;> cases h; rfl
  · cases h; rfl
  · cases h; rfl
  · cases h; rfl
  · split at h
    · next snap hs => cases h; exact (fitSnapshot_eq_some.1 hs).2
    · cases h
  · cases h

end Sys2Proof

/-! The statements about every record and every operation. -/

namespace Sys2Proof.Machine

/-- Settles O3: by the operation's format; a register whose selector is fixed is found by evaluating its device's table. -/
theorem decodeOfEncodeIsIdentity : Obligations.DecodeOfEncodeIsIdentity := by
  intro i h
  cases i with
  | busR8 | busR16 | busR32 | busW8 | busW16 | busW32 =>
    simp only [encode, encodeTxn, decode, decodeTxn, hdr_encodeTxn, coreOfBit_bitOfCore]
    rfl
  | gpioStatusR c p =>
    obtain ⟨hsel, -, -, -⟩ := decodeSel_pin c 0 p
    exact decode_encodeSel hsel
  | gpioStatusW c p v =>
    obtain ⟨-, hsel, -, -⟩ := decodeSel_pin c v p
    exact decode_encodeSel hsel
  | gpioCtrlR c p =>
    obtain ⟨-, -, hsel, -⟩ := decodeSel_pin c 0 p
    exact decode_encodeSel hsel
  | gpioCtrlW c p v =>
    obtain ⟨-, -, -, hsel⟩ := decodeSel_pin c v p
    exact decode_encodeSel hsel
  | gpioIntrR _ r => exact decode_encodeSel (decodeSel_gpioReg 0x00F0 4 (fun c r _ => .gpioIntrR c r) (by decide) rfl r)
  | gpioIntrW _ r => exact decode_encodeSel (decodeSel_gpioReg 0x10F0 5 .gpioIntrW (by decide) rfl r)
  | gpioP0inteR _ r => exact decode_encodeSel (decodeSel_gpioReg 0x0100 6 (fun c r _ => .gpioP0inteR c r) (by decide) rfl r)
  | gpioP0inteW _ r => exact decode_encodeSel (decodeSel_gpioReg 0x1100 7 .gpioP0inteW (by decide) rfl r)
  | gpioP0intsR _ r => exact decode_encodeSel (decodeSel_gpioReg 0x0120 8 (fun c r _ => .gpioP0intsR c r) (by decide) rfl r)
  | gpioP0intsW _ r => exact decode_encodeSel (decodeSel_gpioReg 0x1120 9 .gpioP0intsW (by decide) rfl r)
  | gpioP1inteR _ r => exact decode_encodeSel (decodeSel_gpioReg 0x0130 10 (fun c r _ => .gpioP1inteR c r) (by decide) rfl r)
  | gpioP1inteW _ r => exact decode_encodeSel (decodeSel_gpioReg 0x1130 11 .gpioP1inteW (by decide) rfl r)
  | gpioP1intsR _ r => exact decode_encodeSel (decodeSel_gpioReg 0x0150 12 (fun c r _ => .gpioP1intsR c r) (by decide) rfl r)
  | gpioP1intsW _ r => exact decode_encodeSel (decodeSel_gpioReg 0x1150 13 .gpioP1intsW (by decide) rfl r)
  | timerAlarmR c k =>
    obtain ⟨hsel, -⟩ := decodeSel_alarmReg c 0 k
    exact decode_encodeSel hsel
  | timerAlarmW c k v =>
    obtain ⟨-, hsel⟩ := decodeSel_alarmReg c v k
    exact decode_encodeSel hsel
  | uartReserved _ u => exact decode_encode_reserved (port := .uart u) h
  | gpioReserved => exact decode_encode_reserved (port := .gpio) h
  | timerReserved => exact decode_encode_reserved (port := .timer) h
  | uartRx u bytes =>
    rw [encode, decode, decodeEvt_uartRx rfl, if_neg]
    simpa [Instr.wellFormed] using h
  | gpioReport p lvl =>
    rw [encode, decode, decodeEvt_gpioReport rfl, dif_pos p.isLt]
    have hlvl : (BitVec.ofBool lvl).getLsbD 0 = lvl := BitVec.getLsbD_ofBool ..
    exact congrArg (fun x => Except.ok (Instr.gpioReport p x)) hlvl
  | hostRestore snap =>
    rw [encode, decode]
    exact decodeEvt_hostRestore rfl (fitSnapshot_eq_some.2 ⟨rfl, h⟩)
  | uartCapacity | clockAdvance | hostReset | hostSnapshot => rfl
  | _ => exact decode_encodeSel rfl

/-- Settles O2: each record is read by evaluating the decoder. -/
theorem writtenOutRecordsDecode : Obligations.WrittenOutRecordsDecode :=
  ⟨rfl, rfl, rfl, rfl, rfl, rfl, rfl, rfl, rfl⟩

/-- Settles O4: by the record's format. -/
theorem decodedOperationsAreWellFormed : Obligations.DecodedOperationsAreWellFormed := by
  intro op i h
  cases op with
  | txn t => exact decodeTxn_wellFormed h
  | devsel d => cases h; exact decodeSel_wellFormed ..
  | evt e => exact decodeEvt_wellFormed h

/-- An operation on a UART that does not exist is refused (30_encoding.md R126). -/
theorem withUart_of_absent {s : State} {u : Nat} (k : Uart → Result) (h : s.uarts.length ≤ u) :
    withUart s u k = .refused .noSuchUart := by
  rw [withUart, List.getElem?_eq_none h]

/-- Settles O5: the decoder's refusals by the record's code, the state-dependent ones by the event's own check. -/
theorem illegalInputsAreRefused : Obligations.IllegalInputsAreRefused := by
  refine ⟨fun _ => decodeTxn_of_illegalWidth, fun _ => decodeEvt_of_illegalCode, fun e hcode hpin => ?_, fun e hcode hbytes => ?_,
    fun s t ht => if_pos ht, fun s u bytes hlen hu => ?_⟩
  · exact (decodeEvt_gpioReport hcode).trans (dif_neg (by omega))
  · exact (decodeEvt_uartRx hcode).trans (if_pos (by rw [hbytes]; rfl))
  · have habsent : s.uarts.length ≤ u := hlen ▸ hu
    exact ⟨withUart_of_absent _ habsent, withUart_of_absent _ habsent⟩

end Sys2Proof.Machine

/-! Bus transactions that end at the dispatcher, at a stub, at a memory that takes no write, or at a device register (41_bus.md R150,
R151, R155). -/

namespace Sys2Proof.Machine

variable {c : CoreId} {a v : Word} {w : BusWidth} {s t : State} {kind : GuestErrorKind} {port : DevPort} {off : BitVec 12}

/-- The guest error an access raises before it reaches memory or a device: the dispatcher's own, or STUB (20_memory.md R83, R84). -/
def TurnedAway (cfg : Config) (a : Word) (w : BusWidth) (kind : GuestErrorKind) : Prop :=
  decodeAddr cfg a w = .err kind ∨ (decodeAddr cfg a w = .stub ∧ kind = .stub)

/-- A read that is turned away logs its guest error and ends (41_bus.md R150). -/
theorem busRead_of_turnedAway (h : TurnedAway s.cfg a w kind) : busRead c a w s = .next (s.guestError kind c .read a w 0) := by
  rcases h with herr | ⟨hstub, rfl⟩
  · simp only [busRead, herr]
  · simp only [busRead, hstub]

/-- A write that is turned away logs its guest error and ends (41_bus.md R151). -/
theorem busWrite_of_turnedAway (h : TurnedAway s.cfg a w kind) :
    busWrite c a w v s = .next (s.guestError kind c .write a w v) := by
  rcases h with herr | ⟨hstub, rfl⟩
  · simp only [busWrite, herr]
  · simp only [busWrite, hstub]

/-- A write to a memory that is no SRAM stores nothing (41_bus.md R155). -/
theorem busWrite_of_readOnly {m : MemKind} {off : Nat} (hm : m ≠ .sram) (h : decodeAddr s.cfg a w = .mem m off) :
    busWrite c a w v s = .next (s.guestError .readOnlyRegion c .write a w v) := by
  cases m with
  | sram => exact absurd rfl hm
  | rom | xip => simp only [busWrite, h]

/-- A read that reaches a device is the register operation its selector names (41_bus.md R150). -/
theorem busRead_of_dev (h : decodeAddr s.cfg a w = .dev port off) :
    busRead c a w s = exec (decodeSel port (selector .read off) c 0) s := by
  simp only [busRead, h, devRead_eq]

/-- A write that reaches a device is the register operation its selector names (41_bus.md R151). -/
theorem busWrite_of_dev (h : decodeAddr s.cfg a w = .dev port off) :
    busWrite c a w v s = exec (decodeSel port (selector .write off) c v) s := by
  simp only [busWrite, h, devWrite_eq]

/-- No device register takes a narrow access (20_memory.md R83), so a narrow read has no register's side effect. -/
theorem busRead_narrow_frame (hw : w ≠ .word) (h : busRead c a w s = .next t) : t = { s with diag := t.diag, reply := t.reply } := by
  rcases busRead_next h with ⟨v, rfl⟩ | ⟨kind, rfl⟩ | ⟨port, off, hdec, -⟩
  · rfl
  · rfl
  · exact absurd (decodeAddr_dev hdec).1 hw

/-- Settles O43: the read and the write path at a device. -/
theorem busReachesTheSelectedRegister : Obligations.BusReachesTheSelectedRegister :=
  fun _ _ _ _ _ _ h => ⟨busRead_of_dev h, busWrite_of_dev h⟩

/-- Settles O46: both widths are narrow. -/
theorem narrowReadsHaveNoSideEffect : Obligations.NarrowReadsHaveNoSideEffect := by
  rintro c a s t (hbyte | hhalf)
  · exact busRead_narrow_frame (w := .byte) nofun hbyte
  · exact busRead_narrow_frame (w := .half) nofun hhalf

/-- Settles O40: the read and the write path of an access that is turned away, at each width. -/
theorem busGuestErrorsLogAndGoOn : Obligations.BusGuestErrorsLogAndGoOn := by
  intro c a v w s kind h
  have hread := busRead_of_turnedAway (c := c) h
  have hwrite := busWrite_of_turnedAway (c := c) (v := v) h
  cases w with
  | byte | half | word => exact ⟨hread, hwrite⟩

/-- Settles O41: the write path at ROM and XIP, at each width. -/
theorem readOnlyRegionsIgnoreWrites : Obligations.ReadOnlyRegionsIgnoreWrites := by
  intro c a v w s m off hm h
  have hwrite := busWrite_of_readOnly (c := c) (v := v) hm h
  cases w with
  | byte | half | word => exact hwrite

end Sys2Proof.Machine

/-! The UART operations of a UART that exists, and the byte-by-byte rules of its FIFO (42_uart.md R200 to R232). -/

namespace Sys2Proof.Machine

variable {s : State} {c : CoreId} {u : Nat} {U : Uart}

/-! The shared UART accesses. -/

theorem withUart_of_some (hU : s.uarts[u]? = some U) (k : Uart → Result) : withUart s u k = k U := by
  simp only [withUart, hU]

theorem readUart_of_some (hU : s.uarts[u]? = some U) (f : Uart → Word) : readUart c u s f = .next (s.answer c (f U)) :=
  readUart_next.2 ⟨U, hU, rfl⟩

theorem writeUart_of_some (hU : s.uarts[u]? = some U) (f : Uart → Uart) :
    writeUart c u s f = .next ((s.setUart u (f U)).complete c) :=
  writeUart_next.2 ⟨U, hU, rfl⟩

theorem ignoreUart_of_some (hU : s.uarts[u]? = some U) : ignoreUart c u s = .next (s.complete c) :=
  ignoreUart_next.2 ⟨⟨U, hU⟩, rfl⟩

/-- A UART just replaced is the one found. -/
theorem State.setUart_uarts_self (hU : s.uarts[u]? = some U) (V : Uart) : (s.setUart u V).uarts[u]? = some V :=
  List.getElem?_set_self (List.getElem?_eq_some_iff.1 hU).1

/-! The data register and the external events. -/

/-- A data read of a FIFO that holds a byte (42_uart.md R200). -/
theorem exec_uartDrR_of_pos (hU : s.uarts[u]? = some U) (hlen : 0 < U.fifoLen) :
    exec (.uartDrR c u) s = .next ((s.setUart u U.popData).answer c (zext32 U.oldest)) :=
  (withUart_of_some hU _).trans (if_pos hlen)

/-- A data read of an empty FIFO (42_uart.md R200; log entry 4). -/
theorem exec_uartDrR_of_empty (hU : s.uarts[u]? = some U) (hlen : U.fifoLen = 0) :
    exec (.uartDrR c u) s = .next (s.answerDraw c) :=
  (withUart_of_some hU _).trans (if_neg (by omega))

theorem exec_uartDrW (hU : s.uarts[u]? = some U) (v : Word) :
    exec (.uartDrW c u v) s =
      if U.txEnabled then .next (((s.send u (lowBits 8 v)).setUart u (U.raise uartTxBit)).complete c)
      else .next (s.complete c) :=
  withUart_of_some hU _

theorem exec_uartRx (hU : s.uarts[u]? = some U) (bytes : List Byte) :
    exec (.uartRx u bytes) s = .next ((s.setUart u (U.receiveAll bytes)).setReply .done) :=
  withUart_of_some hU _

theorem exec_uartCapacity (hU : s.uarts[u]? = some U) :
    exec (.uartCapacity u) s = .next (s.setReply (.capacity U.rxCapacity)) :=
  withUart_of_some hU _

/-! The enables and the line. -/

theorem Uart.txEnabled_iff : U.txEnabled = true ↔ U.cr.getLsbD 0 = true ∧ U.cr.getLsbD 8 = true := Bool.and_eq_true_iff

theorem Uart.rxEnabled_iff : U.rxEnabled = true ↔ U.cr.getLsbD 0 = true ∧ U.cr.getLsbD 9 = true := Bool.and_eq_true_iff

/-- The line of a UART is its masked bits not all 0 (60_exceptions.md R405). -/
theorem State.uartIrq_iff (hU : s.uarts[u]? = some U) : s.uartIrq u = true ↔ U.ris &&& U.imsc ≠ 0 := by
  simp only [State.uartIrq, hU]
  exact bne_iff_ne

/-! A byte popped. -/

/-- The RX bit is cleared exactly when the byte popped was the only one (42_uart.md R200). -/
theorem Uart.popData_eq (hlen : 0 < U.fifoLen) :
    U.popData = { U with
      fifoRd := U.fifoRd + 1
      fifoLen := U.fifoLen - 1
      ris := if U.fifoLen = 1 then U.ris &&& ~~~uartRxBit else U.ris } := by
  have hlast : U.pop.fifoLen = 0 ↔ U.fifoLen = 1 := by
    simp only [Uart.pop]
    omega
  simp only [Uart.popData, hlast]
  split <;> rfl

@[simp] theorem Uart.held_popData (U : Uart) : U.popData.held = U.pop.held := by
  unfold Uart.popData
  split <;> rfl

/-- A UART that holds a byte has it at its read cursor, and keeps the rest when it is popped (42_uart.md R220). -/
theorem Uart.held_eq_cons {b : Byte} {rest : List Byte} (h : U.held = b :: rest) :
    0 < U.fifoLen ∧ U.oldest = b ∧ U.popData.held = rest := by
  have hlen : 0 < U.fifoLen := by
    rw [← U.length_held, h]
    exact Nat.succ_pos _
  obtain ⟨hold, hrest⟩ := List.cons.inj ((U.held_pop hlen).symm.trans h)
  exact ⟨hlen, hold, U.held_popData.trans hrest⟩

/-! A byte received. -/

theorem Uart.receive_of_disabled (h : ¬ U.rxEnabled = true) (b : Byte) : U.receive b = U := if_neg h

theorem Uart.receive_of_room (h : U.rxEnabled = true) (hlen : U.fifoLen < 32) (b : Byte) :
    U.receive b = (U.push b).raise uartRxBit :=
  (if_pos h).trans (if_pos hlen)

theorem Uart.receive_of_full (h : U.rxEnabled = true) (hlen : ¬ U.fifoLen < 32) (b : Byte) :
    U.receive b = (U.raise uartOeBit).raise uartRxBit :=
  (if_pos h).trans (if_neg hlen)

@[simp] theorem Uart.receive_cr (U : Uart) (b : Byte) : (U.receive b).cr = U.cr := by
  unfold Uart.receive
  split
  · split <;> rfl
  · rfl

@[simp] theorem Uart.rxEnabled_receive (U : Uart) (b : Byte) : (U.receive b).rxEnabled = U.rxEnabled := by
  rw [Uart.rxEnabled, Uart.receive_cr, Uart.rxEnabled]

/-- A byte received comes after the bytes held, if it fits (42_uart.md R231). -/
theorem Uart.held_receive (hen : U.rxEnabled = true) (hlen : U.fifoLen ≤ 32) (hc : U.cursorsAgree) (b : Byte) :
    (U.receive b).held = (U.held ++ [b]).take 32 := by
  by_cases hroom : U.fifoLen < 32
  · have hfits : (U.held ++ [b]).length ≤ 32 := by simpa using hroom
    rw [Uart.receive_of_room hen hroom, Uart.held_raise, Uart.held_push U b hc hroom, List.take_of_length_le hfits]
  · have hfull : U.held.length = 32 := by
      rw [Uart.length_held]
      omega
    rw [Uart.receive_of_full hen hroom, Uart.held_raise, Uart.held_raise, List.take_left' hfull]

/-- A byte received sets RX, and OE if it is dropped (42_uart.md R231). -/
theorem Uart.ris_receive (hen : U.rxEnabled = true) (b : Byte) :
    (U.receive b).ris.getLsbD 4 = true ∧
    (U.receive b).ris.getLsbD 10 = (U.ris.getLsbD 10 || decide (32 ≤ U.fifoLen)) := by
  by_cases hroom : U.fifoLen < 32
  · rw [Uart.receive_of_room hen hroom]
    simp [Uart.raise, Uart.push, hroom]
  · rw [Uart.receive_of_full hen hroom]
    simp [Uart.raise, Nat.not_lt.1 hroom]

theorem Uart.fifoLen_receive (hen : U.rxEnabled = true) (hlen : U.fifoLen ≤ 32) (b : Byte) :
    (U.receive b).fifoLen = min 32 (U.fifoLen + 1) := by
  by_cases hroom : U.fifoLen < 32
  · rw [Uart.receive_of_room hen hroom]
    exact (Nat.min_eq_right hroom).symm
  · rw [Uart.receive_of_full hen hroom]
    simp only [Uart.raise]
    omega

/-! A whole delivery. -/

@[simp] theorem Uart.receiveAll_nil (U : Uart) : U.receiveAll [] = U := rfl

@[simp] theorem Uart.receiveAll_cons (U : Uart) (b : Byte) (bytes : List Byte) :
    U.receiveAll (b :: bytes) = (U.receive b).receiveAll bytes := rfl

/-- A list cut before more is appended and cut again is the whole cut once. -/
theorem take_append_take {α : Type} (n : Nat) (xs ys : List α) : (xs.take n ++ ys).take n = (xs ++ ys).take n := by
  rw [List.take_append, List.take_append, List.take_take, Nat.min_self, List.length_take, ← Nat.sub_eq_sub_min]

/-- A delivery appends to the bytes held what fits of it, byte by byte (42_uart.md R231). -/
theorem Uart.held_receiveAll (bytes : List Byte) (hen : U.rxEnabled = true) (hlen : U.fifoLen ≤ 32) (hc : U.cursorsAgree) :
    (U.receiveAll bytes).held = (U.held ++ bytes).take 32 := by
  induction bytes generalizing U with
  | nil =>
    rw [Uart.receiveAll_nil, List.append_nil, List.take_of_length_le (by rwa [Uart.length_held])]
  | cons b bytes ih =>
    have hlen' : (U.receive b).fifoLen ≤ 32 := by
      rw [Uart.fifoLen_receive hen hlen]
      exact Nat.min_le_left ..
    have hc' := Uart.cursorsAgree_receive U b hc
    rw [Uart.receiveAll_cons, ih (by rwa [Uart.rxEnabled_receive]) hlen' hc', Uart.held_receive hen hlen hc,
      take_append_take, List.append_assoc, List.singleton_append]

/-- A delivery leaves RX set if it has a byte, or if it was set. -/
theorem Uart.rx_receiveAll (bytes : List Byte) (hen : U.rxEnabled = true) :
    (U.receiveAll bytes).ris.getLsbD 4 = (U.ris.getLsbD 4 || !bytes.isEmpty) := by
  induction bytes generalizing U with
  | nil => simp
  | cons b bytes ih =>
    obtain ⟨hrx, -⟩ := Uart.ris_receive hen b
    rw [Uart.receiveAll_cons, ih (by rwa [Uart.rxEnabled_receive]), hrx]
    simp

/-- A delivery sets OE exactly when it has more bytes than fit. -/
theorem Uart.oe_receiveAll (bytes : List Byte) (hen : U.rxEnabled = true) (hlen : U.fifoLen ≤ 32) :
    (U.receiveAll bytes).ris.getLsbD 10 = (U.ris.getLsbD 10 || decide (32 < U.fifoLen + bytes.length)) := by
  induction bytes generalizing U with
  | nil => simp [Nat.not_lt.2 hlen]
  | cons b bytes ih =>
    obtain ⟨-, hoe⟩ := Uart.ris_receive hen b
    have hlen' := Uart.fifoLen_receive hen hlen b
    have hdropped : (32 ≤ U.fifoLen ∨ 32 < min 32 (U.fifoLen + 1) + bytes.length) ↔
        32 < U.fifoLen + (bytes.length + 1) := by omega
    rw [Uart.receiveAll_cons, ih (by rwa [Uart.rxEnabled_receive]) (by omega), hoe, hlen', Bool.or_assoc, ← Bool.decide_or,
      List.length_cons, decide_eq_decide.2 hdropped]

/-- Settles O14: each clause is a rule of the whole delivery; the length is that of the bytes held. -/
theorem deliveryAppendsUpToCapacity : Obligations.DeliveryAppendsUpToCapacity := by
  intro u bytes s U hU hen hlen hc hne
  have hheld := Uart.held_receiveAll bytes hen hlen hc
  refine ⟨_, U.receiveAll bytes, exec_uartRx hU bytes, State.setUart_uarts_self hU _, hheld,
    Uart.cursorsAgree_receiveAll hc bytes, ?_, ?_, Uart.oe_receiveAll bytes hen hlen⟩
  · rw [← Uart.length_held, hheld, List.length_take, List.length_append, Uart.length_held]
  · rw [Uart.rx_receiveAll bytes hen]
    simp [hne]

/-- A data read returns the oldest byte held and keeps the rest (42_uart.md R200). -/
theorem exec_uartDrR_held {b : Byte} {rest : List Byte} (hU : s.uarts[u]? = some U) (h : U.held = b :: rest) :
    ∃ (t : State) (V : Uart), exec (.uartDrR c u) s = .next t ∧ t.reply = .value c (b.setWidth 32) ∧
      t.uarts[u]? = some V ∧ V.held = rest := by
  obtain ⟨hlen, rfl, hrest⟩ := Uart.held_eq_cons h
  exact ⟨_, U.popData, exec_uartDrR_of_pos hU hlen, rfl, State.setUart_uarts_self hU _, hrest⟩

/-- Settles O15: the read's own rule. -/
theorem dataReadTakesTheOldestByte : Obligations.DataReadTakesTheOldestByte :=
  fun _ _ _ _ _ _ => exec_uartDrR_held

/-- As many data reads as bytes held return them in order, by induction on those bytes. -/
theorem State.drain_held {bytes : List Byte} (hU : s.uarts[u]? = some U) (h : U.held = bytes) :
    s.drain c u bytes.length = some (bytes.map (BitVec.setWidth 32)) := by
  induction bytes generalizing s U with
  | nil => rfl
  | cons b rest ih =>
    obtain ⟨t, V, hexec, hreply, hV, hrest⟩ := exec_uartDrR_held (c := c) hU h
    simp only [List.length_cons, State.drain, hexec, hreply, ih hV hrest, Option.map_some, List.map_cons]

/-- Settles O16: the delivery fits whole, so it is what the FIFO holds, and the reads return what it holds. -/
theorem fifoReturnsBytesInOrder : Obligations.FifoReturnsBytesInOrder := by
  intro c u bytes s U hU hen hempty hc hfit
  have hnone : U.held = [] := List.length_eq_zero_iff.1 (U.length_held.trans hempty)
  have hheld : (U.receiveAll bytes).held = bytes := by
    rw [Uart.held_receiveAll bytes hen (by omega) hc, hnone, List.nil_append, List.take_of_length_le hfit]
  exact ⟨_, exec_uartRx hU bytes, State.drain_held (State.setUart_uarts_self hU _) hheld⟩

end Sys2Proof.Machine

/-! The UART registers one by one, the bytes a UART sends, and the RESERVED rows. -/

namespace Sys2Proof.Machine

variable {s t : State} {i : Instr}

/-- Settles O7: each row is a plain read or a store to its own field of a UART that exists. -/
theorem uartDivisorAndLineRegisters : Obligations.UartDivisorAndLineRegisters := by
  intro c u v s U hU
  have hread (f : Uart → Word) := readUart_of_some (c := c) hU f
  have hwrite (f : Uart → Uart) := writeUart_of_some (c := c) hU f
  exact ⟨⟨rfl, rfl, hread _⟩, ⟨rfl, hwrite _⟩, ⟨rfl, rfl, hread _⟩, ⟨rfl, hwrite _⟩, ⟨rfl, rfl, hread _⟩, ⟨rfl, hwrite _⟩,
    ⟨rfl, rfl, hread _⟩, ⟨rfl, hwrite _⟩⟩

/-- Settles O8: each row is a plain read or a store to its own field, UARTCR's under its mask. -/
theorem uartControlAndMaskRegisters : Obligations.UartControlAndMaskRegisters := by
  intro c u v s U hU
  have hread (f : Uart → Word) := readUart_of_some (c := c) hU f
  have hwrite (f : Uart → Uart) := writeUart_of_some (c := c) hU f
  exact ⟨⟨rfl, rfl, hread _⟩, ⟨rfl, hwrite _⟩, ⟨rfl, rfl, hread _⟩, ⟨rfl, hwrite _⟩, ⟨rfl, rfl, hread _⟩, ⟨rfl, hwrite _⟩,
    ⟨rfl, rfl, hread _⟩, ⟨rfl, hwrite _⟩⟩

/-- Settles O9: ICR is the one row that stores; the others are plain reads and ignored writes. -/
theorem uartInterruptRegisters : Obligations.UartInterruptRegisters := by
  intro c u v s U hU
  have hread (f : Uart → Word) := readUart_of_some (c := c) hU f
  have hignored := ignoreUart_of_some (c := c) hU
  exact ⟨⟨rfl, hread _⟩, ⟨rfl, hignored⟩, ⟨rfl, hread _⟩, ⟨rfl, hignored⟩, ⟨rfl, hread _⟩, ⟨rfl, writeUart_of_some hU _⟩,
    State.uartIrq_iff hU⟩

/-- Settles O11: the two cases of a data read, by whether the FIFO holds a byte. -/
theorem uartDataReadPopsOrDraws : Obligations.UartDataReadPopsOrDraws := by
  intro c u v s U hU
  refine ⟨rfl, fun hlen => ?_, exec_uartDrR_of_empty hU⟩
  rw [exec_uartDrR_of_pos hU hlen, Uart.popData_eq hlen]
  rfl

/-- Settles O12: the two cases of a data write, by the enables. -/
theorem uartDataWriteSendsWhenEnabled : Obligations.UartDataWriteSendsWhenEnabled := by
  intro c u v s U sent hU hsent
  refine ⟨rfl, ?_⟩
  have hlist : s.txLog.getD u [] = sent := by rw [List.getD_eq_getElem?_getD, hsent, Option.getD_some]
  rw [exec_uartDrW hU]
  by_cases hen : U.txEnabled = true
  · rw [if_pos hen, if_pos (Uart.txEnabled_iff.1 hen), ← hlist]
    rfl
  · rw [if_neg hen, if_neg (mt Uart.txEnabled_iff.2 hen)]
    rfl

/-- Settles O13: the events' own rules, and the three cases of a byte received. -/
theorem uartDeliveryRunsByteByByte : Obligations.UartDeliveryRunsByteByByte := by
  refine ⟨fun u s U hU => exec_uartCapacity hU, fun u bytes s U hU => exec_uartRx hU bytes, fun U b => ?_⟩
  by_cases hen : U.rxEnabled = true
  · rw [if_pos (Uart.rxEnabled_iff.1 hen)]
    by_cases hroom : U.fifoLen < 32
    · rw [if_pos hroom, Uart.receive_of_room hen hroom]
      rfl
    · rw [if_neg hroom, Uart.receive_of_full hen hroom]
      rfl
  · rw [if_neg (mt Uart.rxEnabled_iff.2 hen), Uart.receive_of_disabled hen]

/-- The sent bytes after an operation that may have sent one: unchanged, or one more byte of an enabled UART. -/
def State.SentOneAtMost (s t : State) : Prop :=
  t.txLog = s.txLog ∨
    ∃ (u : Nat) (U : Uart) (b : Byte), s.uarts[u]? = some U ∧ U.cr.getLsbD 0 = true ∧ U.cr.getLsbD 8 = true ∧
      t.txLog = s.txLog.set u (s.txLog.getD u [] ++ [b])

/-- Of the register accesses only a UARTDR write sends, and only when UARTEN and TXE are set (42_uart.md R201, R203). -/
theorem DeviceEffect.sentOneAtMost (e : DeviceEffect s i t) : s.SentOneAtMost t := by
  cases e with
  | sent c u v U hU hen =>
    obtain ⟨huart, htx⟩ := Uart.txEnabled_iff.1 hen
    exact .inr ⟨u, U, lowBits 8 v, hU, huart, htx, rfl⟩
  | reserved => exact .inl (State.guestError_txLog ..)
  | _ => exact .inl rfl

theorem Effect.sentOneAtMost (e : Effect s i t) : s.SentOneAtMost t := by
  cases e with
  | device _ _ hi hd | deviceRead c a port off hdec j hsel _ hj hdir hd | deviceWritten c a v port off hdec j hsel _ hj hdir hd =>
    exact hd.sentOneAtMost
  | guestError => exact .inl (State.guestError_txLog ..)
  | _ => exact .inl rfl

/-- Settles O48, by the cases of what an operation can do. -/
theorem bytesAreSentByEnabledUartsOnly : Obligations.BytesAreSentByEnabledUartsOnly :=
  fun _ _ _ h => (effect_of_exec h).sentOneAtMost

/-- Settles O42: each row is one guest error, at the address of its own device's window. -/
theorem reservedAccessesLogAndGoOn : Obligations.ReservedAccessesLogAndGoOn := by
  intro c dir off v s ended
  have hended (a : Word) : s.guestError .reserved c dir a .word v =
      { s with diag := s.diag ++ [⟨.reserved, c, dir, a, .word, v⟩], reply := ended } := by
    cases dir with
    | read | write => rfl
  refine ⟨fun u base hu hbase => ?_, congrArg Host.Outcome.next (hended _), congrArg Host.Outcome.next (hended _)⟩
  have haddr : portAddr s.cfg (.uart u) off = BitVec.ofNat 32 (base + off.toNat) := by
    rw [portAddr, portBase, List.getD_eq_getElem?_getD, hbase, Option.getD_some]
  rw [← haddr, ← hended]
  exact withUart_of_some (List.getElem?_eq_getElem hu) _

end Sys2Proof.Machine

/-! The GPIO: the bits a pin report records, the edge of a transition, the pending bits no other operation sets, and the registers
one by one (43_gpio.md R260 to R282). -/

namespace Sys2Proof.Machine

variable {s t : State} {i : Instr} {c : CoreId} {v : Word}

/-! A pin report. -/

theorem Gpio.report_of_sio {g : Gpio} {p : Fin 30} (h : g.funcsel[p] = funcSio) (lvl : Bool) :
    g.report p lvl = { g with level := g.level.set p lvl }.recordConditions p (pinConditions g.level[p] lvl) := if_pos h

theorem Gpio.report_of_not_sio {g : Gpio} {p : Fin 30} (h : g.funcsel[p] ≠ funcSio) (lvl : Bool) :
    g.report p lvl = { g with level := g.level.set p lvl } := if_neg h

/-- Whatever the function of the pin, a report sets its level and leaves the selects and the enables (43_gpio.md R280). -/
theorem Gpio.report_frame (g : Gpio) (p : Fin 30) (lvl : Bool) :
    (g.report p lvl).level = g.level.set p lvl ∧ (g.report p lvl).funcsel = g.funcsel ∧ (g.report p lvl).inte0 = g.inte0 ∧
    (g.report p lvl).inte1 = g.inte1 := by
  by_cases hsio : g.funcsel[p] = funcSio
  · rw [Gpio.report_of_sio hsio]
    exact ⟨rfl, rfl, rfl, rfl⟩
  · rw [Gpio.report_of_not_sio hsio]
    exact ⟨rfl, rfl, rfl, rfl⟩

/-- The pending bits after a report: only a pin in SIO records, at its own place and under the enables (43_gpio.md R280). -/
theorem Gpio.report_intr_getLsbD (g : Gpio) (p : Fin 30) (lvl : Bool) (r : Fin 4) (b : Nat) (hb : b < 32) :
    (g.report p lvl).intr[r].getLsbD b =
      (g.intr[r].getLsbD b ||
        (decide (g.funcsel[p] = funcSio) &&
          (pinHolds p r b && (pinConditions g.level[p] lvl).getLsbD (b % 4) &&
            (g.inte0[r].getLsbD b || g.inte1[r].getLsbD b)))) := by
  by_cases hsio : g.funcsel[p] = funcSio
  · rw [Gpio.report_of_sio hsio, Gpio.recordConditions_getLsbD _ _ _ _ _ hb, decide_eq_true hsio, Bool.true_and]
  · rw [Gpio.report_of_not_sio hsio, decide_eq_false hsio, Bool.false_and, Bool.or_false]

/-- Settles O19: the bits of a report, the conditions one by one. -/
theorem pinReportRecordsEnabledConditions : Obligations.PinReportRecordsEnabledConditions := by
  intro p lvl s
  obtain ⟨hlevel, hfuncsel, hinte0, hinte1⟩ := s.gpio.report_frame p lvl
  refine ⟨s.gpio.report p lvl, rfl, hlevel, hfuncsel, hinte0, hinte1, fun hsio => ?_, fun hsio r b => ?_⟩
  · rw [Gpio.report_of_not_sio hsio]
  · obtain ⟨hlow, hhigh, hfall, hrise⟩ := pinConditions_getLsbD s.gpio.level[p] lvl
    rw [Gpio.report_intr_getLsbD _ _ _ _ _ b.isLt, decide_eq_true hsio, Bool.true_and, pinHolds, Bool.and_right_comm]
    congr 2
    rcases (by omega : b.val % 4 = 0 ∨ b.val % 4 = 1 ∨ b.val % 4 = 2 ∨ b.val % 4 = 3) with h | h | h | h <;> rw [h]
    · exact hlow
    · exact hhigh
    · exact hfall
    · exact hrise

/-- A satisfied edge condition is that of the transition: edge-high at place 3, edge-low at place 2 (43_gpio.md R282). -/
theorem pinConditions_edge {prev lvl : Bool} {j : Nat} (hj : 2 ≤ j) (h : (pinConditions prev lvl).getLsbD j = true) :
    prev ≠ lvl ∧ j = if lvl then 3 else 2 := by
  obtain ⟨-, -, hfall, hrise⟩ := pinConditions_getLsbD prev lvl
  have hlt : j < 4 := BitVec.lt_of_getLsbD h
  rcases (by omega : j = 2 ∨ j = 3) with rfl | rfl
  · rw [hfall, Bool.and_eq_true, Bool.not_eq_true'] at h
    obtain ⟨rfl, rfl⟩ := h
    decide
  · rw [hrise, Bool.and_eq_true, Bool.not_eq_true'] at h
    obtain ⟨rfl, rfl⟩ := h
    decide

/-- Settles O20: a bit a report raises stands at the pin's place with its condition satisfied. -/
theorem reportRaisesOnlyItsTransitionsEdge : Obligations.ReportRaisesOnlyItsTransitionsEdge := by
  intro p lvl s t h r b hedge hset hclear
  cases next_inj.1 h
  have hbit := (s.gpio.report_intr_getLsbD p lvl r b b.isLt).symm.trans hset
  rw [hclear, Bool.false_or, Bool.and_eq_true, Bool.and_eq_true, Bool.and_eq_true] at hbit
  obtain ⟨-, ⟨hholds, hcond⟩, -⟩ := hbit
  obtain ⟨hreg, hplace⟩ := of_decide_eq_true hholds
  exact ⟨hreg, hplace, pinConditions_edge hedge hcond⟩

/-! The pending bits under every other operation. -/

/-- Every pending bit of `g'` was pending in `g`. -/
def Gpio.NoNewPending (g g' : Gpio) : Prop :=
  ∀ (r : Fin 4) (b : Fin 32), g'.intr[r].getLsbD b.val = true → g.intr[r].getLsbD b.val = true

theorem Gpio.noNewPending_of_intr_eq {g g' : Gpio} (h : g'.intr = g.intr) : g.NoNewPending g' :=
  fun _ _ hset => h ▸ hset

/-- A write-1-to-clear clears bits of one register and leaves the others (43_gpio.md R265). -/
theorem Gpio.noNewPending_clear (g : Gpio) (r : Fin 4) (x : Word) :
    g.NoNewPending { g with intr := g.intr.set r (g.intr[r] &&& x) } := by
  intro r' b hset
  simp only [Vector.get_set_fin] at hset
  split at hset
  · next heq =>
    subst heq
    rw [BitVec.getLsbD_and, Bool.and_eq_true] at hset
    exact hset.1
  · exact hset

/-- No bit is pending after a reset (10_state.md R50). -/
theorem Gpio.noNewPending_reset (g : Gpio) : g.NoNewPending Gpio.reset := by
  intro r b hset
  have hzero : Gpio.reset.intr[r] = 0 := Vector.getElem_replicate r.isLt
  rw [hzero, BitVec.ofNat_eq_ofNat, BitVec.getLsbD_zero] at hset
  exact absurd hset Bool.false_ne_true

/-- No register access sets a pending bit: an INTR write clears, and the others leave them (43_gpio.md R281). -/
theorem DeviceEffect.noNewPending (e : DeviceEffect s i t) : s.gpio.NoNewPending t.gpio := by
  cases e with
  | clearedGpio c r v => exact Gpio.noNewPending_clear s.gpio r _
  | reserved => exact Gpio.noNewPending_of_intr_eq (congrArg Gpio.intr (State.guestError_gpio ..))
  | _ => exact Gpio.noNewPending_of_intr_eq rfl

/-- Settles O21, by the cases of what an operation can do. -/
theorem pendingBitsAreSetByReportsOnly : Obligations.PendingBitsAreSetByReportsOnly := by
  intro i s t h hreport hrestore
  change s.gpio.NoNewPending t.gpio
  cases effect_of_exec h with
  | device _ _ hi hd | deviceRead c a port off hdec j hsel _ hj hdir hd | deviceWritten c a v port off hdec j hsel _ hj hdir hd =>
    exact hd.noNewPending
  | guestError => exact Gpio.noNewPending_of_intr_eq (congrArg Gpio.intr (State.guestError_gpio ..))
  | reported p lvl => exact absurd rfl (hreport p lvl)
  | reset => exact Gpio.noNewPending_reset s.gpio
  | restored snap hfit hn => exact absurd rfl (hrestore snap)
  | _ => exact Gpio.noNewPending_of_intr_eq rfl

/-! The registers one by one. -/

/-- Bit 17 of STATUS as the word it reads (43_gpio.md R260). -/
theorem statusWord_eq (lvl : Bool) : zext32 (BitVec.ofBool lvl) <<< 17 = if lvl then 0x20000 else 0 := by cases lvl <;> rfl

/-- Settles O17: each row is a plain read, an ignored write, or the store of the function select. -/
theorem gpioPinRegisters : Obligations.GpioPinRegisters := by
  intro c p v s
  obtain ⟨statusR, statusW, ctrlR, ctrlW⟩ := decodeSel_pin c v p
  rw [← pinSelector_ofNat 0x1000, ← pinSelector_ofNat 0x0004, ← pinSelector_ofNat 0x1004]
  refine ⟨⟨?_, ?_⟩, ⟨statusW, rfl⟩, ⟨ctrlR, Vector.getElem_replicate p.isLt, rfl⟩, ⟨ctrlW, rfl⟩⟩
  · rwa [pinSelector, zero_add] at statusR
  · rw [← statusWord_eq]
    rfl

/-- A four-register family of the GPIO, by the selector of its register `r` (30_encoding.md R131). -/
theorem decodeSel_gpioReg_ofNat (n k : Nat) {pat mask : BitVec 13} {cond : BitVec 12 → Bool} (op : CoreId → Fin 4 → Word → Instr)
    (hmem : (n, k) ∈ fourRegRows) (hop : gpioRows[k]? = some ⟨pat, mask, cond, fun a => op a.c (regOf a.off) a.v⟩) (r : Fin 4) :
    decodeSel .gpio (BitVec.ofNat 13 (n + 4 * r.val)) c v = op c r v :=
  regSelector_ofNat n r ▸ decodeSel_gpioReg n k op hmem hop r

/-- Settles O18: each row is a plain read, an ignored write, or a store to its own register under INTR_MASK. -/
theorem gpioInterruptRegisters : Obligations.GpioInterruptRegisters := by
  intro c r v s mask
  have hreset : (Vector.replicate 4 (0 : Word))[r] = 0 := Vector.getElem_replicate r.isLt
  exact ⟨⟨decodeSel_gpioReg_ofNat 0x00F0 4 (fun c r _ => .gpioIntrR c r) (by decide) rfl r, rfl⟩,
    ⟨decodeSel_gpioReg_ofNat 0x10F0 5 .gpioIntrW (by decide) rfl r, rfl⟩,
    ⟨decodeSel_gpioReg_ofNat 0x0100 6 (fun c r _ => .gpioP0inteR c r) (by decide) rfl r, hreset, rfl⟩,
    ⟨decodeSel_gpioReg_ofNat 0x1100 7 .gpioP0inteW (by decide) rfl r, rfl⟩,
    ⟨decodeSel_gpioReg_ofNat 0x0120 8 (fun c r _ => .gpioP0intsR c r) (by decide) rfl r, rfl⟩,
    ⟨decodeSel_gpioReg_ofNat 0x1120 9 .gpioP0intsW (by decide) rfl r, rfl⟩,
    ⟨decodeSel_gpioReg_ofNat 0x0130 10 (fun c r _ => .gpioP1inteR c r) (by decide) rfl r, hreset, rfl⟩,
    ⟨decodeSel_gpioReg_ofNat 0x1130 11 .gpioP1inteW (by decide) rfl r, rfl⟩,
    ⟨decodeSel_gpioReg_ofNat 0x0150 12 (fun c r _ => .gpioP1intsR c r) (by decide) rfl r, rfl⟩,
    ⟨decodeSel_gpioReg_ofNat 0x1150 13 .gpioP1intsW (by decide) rfl r, rfl⟩⟩

end Sys2Proof.Machine

/-! The timer: the counter under a rebase, a pause and an advance, the alarms that fire and those that stay silent, and the latch
(44_timer.md R310 to R345). -/

namespace Sys2Proof.Machine

variable {s t : State} {i : Instr} {k : Fin 4}

/-! What a rebase and a pause do to the two fields that carry the counter. -/

/-- Only a running timer carries the counter in its base (44_timer.md R315). -/
theorem Timer.setCounter_base (T : Timer) (now x : Time) :
    (T.setCounter now x).base = if T.paused then T.base else now - x := by
  unfold Timer.setCounter
  split <;> rfl

/-- Only a paused timer carries the counter in its frozen value (44_timer.md R315). -/
theorem Timer.setCounter_frozen (T : Timer) (now x : Time) :
    (T.setCounter now x).frozen = if T.paused then x else T.frozen := by
  unfold Timer.setCounter
  split <;> rfl

/-- The frozen value is taken when a running timer is paused (44_timer.md R329). -/
theorem Timer.setPaused_frozen (T : Timer) (now : Time) (p : Bool) :
    (T.setPaused now p).frozen = if p = true ∧ T.paused = false then T.counter now else T.frozen := by
  unfold Timer.setPaused
  split
  · rfl
  · split <;> rfl

/-- The base is set anew when a paused timer resumes (44_timer.md R329). -/
theorem Timer.setPaused_base (T : Timer) (now : Time) (p : Bool) :
    (T.setPaused now p).base = if p = false ∧ T.paused = true then now - T.frozen else T.base := by
  unfold Timer.setPaused
  split
  · next hpause =>
    obtain ⟨rfl, -⟩ := hpause
    rfl
  · split <;> rfl

/-! Alarm evaluation. -/

/-- An evaluation of a timer whose alarms are those of `B` fires the alarms of `B` that are due at its counter. -/
theorem Timer.firedAt_evalAlarms {B T : Timer} {clock now : Time} (harmed : T.armed = B.armed) (hintr : T.intr = B.intr)
    (htarget : T.target = B.target) (hnow : T.counter clock = now) : B.firedAt (T.evalAlarms clock) now := by
  intro k
  rw [← harmed, ← hintr, ← htarget, ← hnow]
  exact ⟨Timer.fireDue_armed .., Timer.fireDue_intr ..⟩

/-- Settles O26: the counter is made to read the data, and the alarms are evaluated at it. -/
theorem timelwWriteRebases : Obligations.TimelwWriteRebases := by
  intro c v s
  exact ⟨rfl, s.timer.rebase s.clockNow (v.setWidth 64), rfl, Timer.setCounter_counter .., Timer.setCounter_base ..,
    Timer.setCounter_frozen .., Timer.setCounter_paused .., Timer.setCounter_latch .., Timer.setCounter_target ..,
    Timer.setCounter_inte ..,
    Timer.firedAt_evalAlarms (Timer.setCounter_armed ..) (Timer.setCounter_intr ..) (Timer.setCounter_target ..)
      (Timer.setCounter_counter ..)⟩

/-- Settles O28: the counter is carried over from one field to the other, and the alarms are evaluated at it. -/
theorem pauseWriteKeepsTheCounter : Obligations.PauseWriteKeepsTheCounter := by
  intro c v s
  exact ⟨rfl, (s.timer.setPaused s.clockNow (v.getLsbD 0)).evalAlarms s.clockNow, rfl, Timer.setPaused_paused ..,
    Timer.setPaused_counter .., Timer.setPaused_frozen .., Timer.setPaused_base .., Timer.setPaused_latch ..,
    Timer.setPaused_target .., Timer.setPaused_inte ..,
    Timer.firedAt_evalAlarms (Timer.setPaused_armed ..) (Timer.setPaused_intr ..) (Timer.setPaused_target ..)
      (Timer.setPaused_counter ..)⟩

/-- An advance to a time not before the clock is accepted (44_timer.md R340). -/
theorem exec_clockAdvance_of_le {x : Time} (h : s.clockNow ≤ x) :
    exec (.clockAdvance x) s = .next (((s.setClock x).setTimer (s.timer.evalAlarms x)).setReply .done) :=
  if_neg (BitVec.not_lt.2 h)

/-- Settles O29: one evaluation at the counter of the new time. -/
theorem clockAdvanceFiresDueAlarms : Obligations.ClockAdvanceFiresDueAlarms := by
  intro x s h
  exact ⟨s.timer.evalAlarms x, exec_clockAdvance_of_le h, rfl, rfl, rfl, rfl, rfl, rfl, Timer.firedAt_evalAlarms rfl rfl rfl rfl⟩

/-! Arming an alarm. -/

/-- The alarm just armed waits or fires by its data and the counter's low word alone, since the high words agree (44_timer.md R321). -/
theorem Timer.evalAlarms_arm_self (T : Timer) (now : Time) (k : Fin 4) (v : Word) :
    ((T.arm now k v).evalAlarms now).armed.getLsbD k.val = decide (loWord (T.counter now) < v) ∧
    ((T.arm now k v).evalAlarms now).intr.getLsbD k.val = (T.intr.getLsbD k.val || decide (v ≤ loWord (T.counter now))) := by
  have harmed : (T.arm now k v).armed.getLsbD k.val = true := by rw [Timer.arm_armed, decide_eq_true rfl, Bool.true_or]
  have htarget : (T.arm now k v).target[k] = hiWord (T.counter now) ++ v := by rw [Timer.arm_target, if_pos rfl]
  obtain ⟨hfiredArmed, hfiredIntr⟩ := Timer.firedAt_evalAlarms (T := T.arm now k v) rfl rfl rfl (Timer.arm_counter T now now k v) k
  rw [hfiredArmed, hfiredIntr, harmed, htarget, Bool.true_and, Bool.true_and, Timer.arm_intr]
  simp only [← BitVec.not_le, hiWord_append_le, and_self]

/-- Arming one alarm leaves the others to the evaluation (44_timer.md R321). -/
theorem Timer.evalAlarms_arm_of_ne (T : Timer) (now : Time) {j k : Fin 4} (hjk : j ≠ k) (v : Word) :
    ((T.arm now k v).evalAlarms now).armed.getLsbD j.val = (T.armed.getLsbD j.val && decide (T.counter now < T.target[j])) ∧
    ((T.arm now k v).evalAlarms now).intr.getLsbD j.val =
      (T.intr.getLsbD j.val || T.armed.getLsbD j.val && decide (T.target[j] ≤ T.counter now)) := by
  have harmed : (T.arm now k v).armed.getLsbD j.val = T.armed.getLsbD j.val := by
    rw [Timer.arm_armed, decide_eq_false hjk, Bool.false_or]
  have htarget : (T.arm now k v).target[j] = T.target[j] := by rw [Timer.arm_target, if_neg hjk.symm]
  have hfired := Timer.firedAt_evalAlarms (T := T.arm now k v) rfl rfl rfl (Timer.arm_counter T now now k v) j
  rwa [harmed, htarget, Timer.arm_intr] at hfired

/-- Settles O27: the alarm written by its low word, the others by their own targets. -/
theorem alarmWriteArmsOrFires : Obligations.AlarmWriteArmsOrFires := by
  intro c k v s
  obtain ⟨harmed, hintr⟩ := s.timer.evalAlarms_arm_self s.clockNow k v
  have hlow : loWord (s.timer.counter s.clockNow) = s.counter.extractLsb' 0 32 := rfl
  rw [hlow] at harmed hintr
  refine ⟨regSelector_ofNat 0x1010 k ▸ (decodeSel_alarmReg c v k).2, (s.timer.arm s.clockNow k v).evalAlarms s.clockNow, rfl, rfl,
    rfl, rfl, rfl, rfl, rfl, fun hdue => ?_, fun hwaits => ?_, fun j hjk => s.timer.evalAlarms_arm_of_ne s.clockNow hjk v⟩
  · rw [harmed, hintr]
    exact ⟨decide_eq_false (BitVec.not_lt.2 hdue), by rw [decide_eq_true hdue, Bool.or_true]⟩
  · rw [harmed, hintr]
    exact ⟨decide_eq_true hwaits, by rw [decide_eq_false (BitVec.not_le.2 hwaits), Bool.or_false]⟩

/-! The deadline of an alarm. -/

/-- At the deadline the counter of a running timer reads the target (44_timer.md R345). -/
theorem State.counter_at_alarmDeadline (hrun : s.timer.paused = false) (k : Fin 4) :
    s.timer.counter (s.alarmDeadline k) = s.timer.target[k] := by
  rw [Timer.counter_eq_add s.timer s.clockNow, hrun, if_neg Bool.false_ne_true, State.alarmDeadline, add_sub_cancel_left]
  exact add_sub_cancel ..

/-- Until the deadline the counter of a running timer stays below the target (44_timer.md R345). A deadline past a wrap of the clock
is below every later time, so none of those is before it. -/
theorem State.counter_before_alarmDeadline {x : Time} (hrun : s.timer.paused = false) (hle : s.clockNow ≤ x)
    (hwait : s.counter < s.timer.target[k]) (hx : x < s.alarmDeadline k) :
    s.timer.counter x < s.timer.target[k] := by
  rw [Timer.counter_eq_add s.timer s.clockNow, hrun, if_neg Bool.false_ne_true]
  change s.counter + (x - s.clockNow) < s.timer.target[k]
  unfold State.alarmDeadline at hx
  generalize s.counter = counter at *
  generalize s.timer.target[k] = target at *
  bv_omega

/-- Settles O32: the counter is below the target before the deadline and reads it at the deadline. -/
theorem alarmFiresAtItsDeadline : Obligations.AlarmFiresAtItsDeadline := by
  intro k x s t h hrun harmed hwait _
  obtain ⟨hle, rfl⟩ := exec_clockAdvance_next h
  obtain ⟨hfiredArmed, hfiredIntr⟩ := Timer.firedAt_evalAlarms (T := s.timer) (clock := x) rfl rfl rfl rfl k
  simp only [State.setReply_timer, State.setTimer_timer, hfiredArmed, hfiredIntr, harmed, Bool.true_and]
  refine ⟨fun hbefore => ?_, fun hat => ?_⟩
  · have hlt := State.counter_before_alarmDeadline hrun hle hwait hbefore
    exact ⟨decide_eq_true hlt, by rw [decide_eq_false (BitVec.not_le.2 hlt), Bool.or_false]⟩
  · have heq : s.timer.counter x = s.timer.target[k] := hat ▸ State.counter_at_alarmDeadline hrun k
    rw [heq]
    exact ⟨decide_eq_false (BitVec.lt_irrefl _), by rw [decide_eq_true (BitVec.le_refl _), Bool.or_true]⟩

/-! A disarmed alarm. -/

/-- In `T'` alarm `k` is disarmed, and it is raised only if it was in `T`. -/
def Timer.Silent (T : Timer) (k : Fin 4) (T' : Timer) : Prop :=
  T'.armed.getLsbD k.val = false ∧ (T'.intr.getLsbD k.val = true → T.intr.getLsbD k.val = true)

/-- Only armed alarms fire (44_timer.md R310). -/
theorem Timer.Silent.evalAlarms {T T' : Timer} (h : T.Silent k T') (now : Time) : T.Silent k (T'.evalAlarms now) := by
  obtain ⟨hoff, hintr⟩ := h
  obtain ⟨hfiredArmed, hfiredIntr⟩ := Timer.firedAt_evalAlarms (T := T') (clock := now) rfl rfl rfl rfl k
  rw [hoff, Bool.false_and] at hfiredArmed hfiredIntr
  rw [Bool.or_false] at hfiredIntr
  exact ⟨hfiredArmed, fun hset => hintr (hfiredIntr.symm.trans hset)⟩

theorem Timer.silent_self {T : Timer} (hoff : T.armed.getLsbD k.val = false) : T.Silent k T := ⟨hoff, id⟩

theorem Timer.silent_of_eq {T T' : Timer} (hoff : T.armed.getLsbD k.val = false) (harmed : T'.armed = T.armed)
    (hintr : T'.intr = T.intr) : T.Silent k T' :=
  ⟨harmed ▸ hoff, fun hset => hintr ▸ hset⟩

/-- Arming another alarm leaves this one as it is (44_timer.md R321). -/
theorem Timer.silent_arm {T : Timer} (hoff : T.armed.getLsbD k.val = false) {j : Fin 4} (hjk : k ≠ j) (now : Time) (v : Word) :
    T.Silent k (T.arm now j v) :=
  ⟨by rw [Timer.arm_armed, decide_eq_false hjk, Bool.false_or, hoff], id⟩

/-- An ARMED write disarms alarms and arms none (44_timer.md R323). -/
theorem Timer.silent_clearArmed {T : Timer} (hoff : T.armed.getLsbD k.val = false) (x : BitVec 4) :
    T.Silent k { T with armed := T.armed &&& x } :=
  ⟨by rw [BitVec.getLsbD_and, hoff, Bool.false_and], id⟩

/-- An INTR write clears raised bits and raises none (44_timer.md R331). -/
theorem Timer.silent_clearIntr {T : Timer} (hoff : T.armed.getLsbD k.val = false) (x : BitVec 4) :
    T.Silent k { T with intr := T.intr &&& x } := by
  refine ⟨hoff, fun hset => ?_⟩
  rw [BitVec.getLsbD_and, Bool.and_eq_true] at hset
  exact hset.1

theorem Timer.silent_reset (T : Timer) (now : Time) (k : Fin 4) : T.Silent k (Timer.reset now) :=
  ⟨BitVec.getLsbD_zero, fun hset => by cases (BitVec.getLsbD_zero (w := 4)).symm.trans hset⟩

/-- No register access but a write of its ALARM register arms or raises a disarmed alarm. -/
theorem DeviceEffect.silent (e : DeviceEffect s i t) (hoff : s.timer.armed.getLsbD k.val = false)
    (hne : ∀ c v, i ≠ .timerAlarmW c k v) : s.timer.Silent k t.timer := by
  cases e with
  | rebased c v => exact (Timer.silent_of_eq hoff (Timer.setCounter_armed ..) (Timer.setCounter_intr ..)).evalAlarms _
  | armed c j v => exact (Timer.silent_arm hoff (fun hkj => hne c v (hkj ▸ rfl)) ..).evalAlarms _
  | disarmed c v => exact Timer.silent_clearArmed hoff _
  | paused c v => exact (Timer.silent_of_eq hoff (Timer.setPaused_armed ..) (Timer.setPaused_intr ..)).evalAlarms _
  | clearedTimer c v => exact Timer.silent_clearIntr hoff _
  | reserved => rw [State.guestError_timer]; exact Timer.silent_self hoff
  | _ => exact Timer.silent_self hoff

/-- Settles O33: over the bus too only the selector of ALARMk reaches a write of ALARMk, and no read transaction does. -/
theorem disarmedAlarmNeverFires : Obligations.DisarmedAlarmNeverFires := by
  intro k i s t h hoff halarm hbus hrestore
  change s.timer.Silent k t.timer
  cases effect_of_exec h with
  | device _ _ hi hd => exact hd.silent hoff halarm
  | deviceRead c a port off hdec j hsel _ hj hdir hd =>
    refine hd.silent hoff ?_
    rintro c' v' rfl
    cases hdir
  | deviceWritten c a v port off hdec j hsel _ hj hdir hd =>
    refine hd.silent hoff fun c' v' heq => ?_
    obtain ⟨rfl, rfl⟩ := decodeSel_alarm (hsel.trans heq)
    exact hbus c a v rfl hdec
  | guestError => rw [State.guestError_timer]; exact Timer.silent_self hoff
  | advanced x hx => exact (Timer.silent_self hoff).evalAlarms x
  | reset => exact Timer.silent_reset ..
  | restored snap hfit hn => exact absurd rfl (hrestore snap)
  | _ => exact Timer.silent_self hoff

/-! The latch. -/

/-- Of the register accesses only a TIMEHR read takes the latch (44_timer.md R316). -/
theorem DeviceEffect.latch_eq (e : DeviceEffect s i t) (hne : ∀ c, i ≠ .timerTimehrR c) : t.timer.latch = s.timer.latch := by
  cases e with
  | latched c => exact absurd rfl (hne c)
  | rebased c v => exact Timer.setCounter_latch ..
  | paused c v => exact Timer.setPaused_latch ..
  | reserved => exact congrArg Timer.latch (State.guestError_timer ..)
  | _ => rfl

/-- Settles O34: over the bus too only the selector of TIMEHR reaches a TIMEHR read, and no write transaction does. -/
theorem latchIsTakenByHighReadsOnly : Obligations.LatchIsTakenByHighReadsOnly := by
  intro i s t h htimehr hbus hreset hrestore
  cases effect_of_exec h with
  | device _ _ hi hd => exact hd.latch_eq htimehr
  | deviceRead c a port off hdec j hsel _ hj hdir hd =>
    refine hd.latch_eq fun c' heq => ?_
    obtain ⟨rfl, rfl⟩ := decodeSel_timehr (hsel.trans heq)
    exact hbus c a rfl hdec
  | deviceWritten c a v port off hdec j hsel _ hj hdir hd =>
    refine hd.latch_eq ?_
    rintro c' rfl
    cases hdir
  | guestError => exact congrArg Timer.latch (State.guestError_timer ..)
  | reset => exact absurd rfl hreset
  | restored snap hfit hn => exact absurd rfl (hrestore snap)
  | _ => rfl

/-! The registers one by one. -/

/-- Settles O23: each row is an ignored write. -/
theorem timerIgnoredWrites : Obligations.TimerIgnoredWrites := by
  intro c v s
  have hignored : ignoreReg c s = .next { s with reply := .written c } := ignoreReg_next.2 rfl
  exact ⟨⟨rfl, hignored⟩, ⟨rfl, hignored⟩, ⟨rfl, hignored⟩, ⟨rfl, hignored⟩, ⟨rfl, hignored⟩, ⟨rfl, hignored⟩⟩

/-- Settles O24: each row stores its field, and a line is a bit of the masked status. -/
theorem timerClearAndEnableWrites : Obligations.TimerClearAndEnableWrites := by
  intro c v s
  exact ⟨⟨rfl, rfl⟩, ⟨rfl, rfl⟩, ⟨rfl, rfl⟩, fun _ => BitVec.getLsbD_and⟩

/-- Core 1 has a latch of its own only when the scope is per_core (44_timer.md R316; log entry 14). -/
theorem latchSlot_eq (scope : LatchScope) (c : CoreId) : latchSlot scope c = if scope = .perCore ∧ c = .core1 then 1 else 0 := by
  cases scope <;> cases c <;> rfl

/-- A TIMEHR read at the slot of its core (44_timer.md R316). -/
theorem exec_timerTimehrR {c : CoreId} {slot : Fin 2} (hslot : latchSlot s.cfg.latchScope c = slot) :
    exec (.timerTimehrR c) s =
      .next ((s.setTimer { s.timer with latch := s.timer.latch.set slot s.counter }).answer c (hiWord s.counter)) := by
  subst hslot
  rfl

/-- A TIMELR read at the slot of its core (44_timer.md R318). -/
theorem exec_timerTimelrR {c : CoreId} {slot : Fin 2} (hslot : latchSlot s.cfg.latchScope c = slot) :
    exec (.timerTimelrR c) s = .next (s.answer c (loWord s.timer.latch[slot])) := by
  subst hslot
  rfl

/-- Settles O25, at the slot of the core under the configured scope. -/
theorem timerHighReadLatchesLowReadReturnsLatch : Obligations.TimerHighReadLatchesLowReadReturnsLatch := by
  intro c v s
  have hslot := latchSlot_eq s.cfg.latchScope c
  exact ⟨⟨rfl, exec_timerTimehrR hslot⟩, ⟨rfl, exec_timerTimelrR hslot⟩⟩

end Sys2Proof.Machine

/-! The interrupt lines as functions of state, and the one record an operation may log (60_exceptions.md R400 to R410). -/

namespace Sys2Proof.Machine

variable {s t : State} {i : Instr}

/-! The lines. -/

/-- The lines are read off the devices alone (60_exceptions.md R408). -/
theorem State.lineLevel_congr (huarts : t.uarts = s.uarts) (hgpio : t.gpio = s.gpio) (htimer : t.timer = s.timer) (l : Line) :
    t.lineLevel l = s.lineLevel l := by
  cases l with
  | uart u => simp only [State.lineLevel, State.uartIrq, huarts]
  | gpio c => simp only [State.lineLevel, State.gpioIrq, hgpio]
  | timer k => simp only [State.lineLevel, State.timerIrq, htimer]

/-- A core's GPIO line is its masked status not all 0 in one of the four registers (60_exceptions.md R406). -/
theorem State.gpioIrq_iff (s : State) (c : CoreId) : s.gpioIrq c = true ↔ ∃ r : Fin 4, s.gpio.intr[r] &&& (s.gpio.inte c)[r] ≠ 0 := by
  have hsome : s.gpioIrq c = true ↔ ∃ r : Fin 4, (s.gpio.ints c r != 0) = true := by
    simp [State.gpioIrq, Fin.exists_fin_succ, or_assoc]
  exact hsome.trans (exists_congr fun _ => bne_iff_ne)

/-- A timer line is its bit of the masked status (60_exceptions.md R407). -/
theorem State.timerIrq_eq (s : State) (k : Fin 4) : s.timerIrq k = (s.timer.intr.getLsbD k.val && s.timer.inte.getLsbD k.val) :=
  BitVec.getLsbD_and

/-- A GPIO line goes to its own core's controller (60_exceptions.md R410). -/
theorem lineWiredTo_gpio_iff (cfg : Config) (g c : CoreId) : lineWiredTo cfg (.gpio g) c = true ↔ g = c := beq_iff_eq

/-- The default wiring takes both UART lines to both controllers (60_exceptions.md R410; log entry 8). -/
theorem lineWiredTo_default_uart (u : Fin 2) (c : CoreId) : lineWiredTo .default (.uart u) c = true := by
  have hentry : ∀ u : Fin 2, Config.default.uartWiring[u.val]? = some ⟨true, true⟩ := by decide
  simp only [lineWiredTo, hentry u]
  cases c with
  | core0 | core1 => rfl

/-- The default wiring takes every timer line to both controllers (60_exceptions.md R410; log entry 8). -/
theorem lineWiredTo_default_timer (k : Fin 4) (c : CoreId) : lineWiredTo .default (.timer k) c = true := by
  have hentry : Config.default.timerWiring[k] = ⟨true, true⟩ := Vector.getElem_replicate ..
  simp only [lineWiredTo, hentry]
  cases c with
  | core0 | core1 => rfl

/-- Settles O49: what each kind of line is, and where it goes. -/
theorem interruptLinesFollowState : Obligations.InterruptLinesFollowState :=
  ⟨fun _ _ _ hU => State.uartIrq_iff hU, fun s => ⟨s.gpioIrq_iff .core0, s.gpioIrq_iff .core1⟩, State.timerIrq_eq,
    lineWiredTo_gpio_iff, fun c u k => ⟨lineWiredTo_default_uart u c, lineWiredTo_default_timer k c⟩⟩

/-! The diagnostic log. -/

/-- The log after an operation that may have raised a guest error: unchanged, or one more record where nothing else but the reply
is new (60_exceptions.md R400, R402). -/
def State.LogsOneAtMost (s t : State) : Prop :=
  t.diag = s.diag ∨
    ∃ d, t = { s with diag := s.diag ++ [d], reply := t.reply } ∧ ∀ l : Line, t.lineLevel l = s.lineLevel l

/-- A guest error is one record and no device's change. -/
theorem State.logsOneAtMost_guestError {kind : GuestErrorKind} {c : CoreId} {dir : Dir} {a v : Word} {w : BusWidth} :
    s.LogsOneAtMost (s.guestError kind c dir a w v) :=
  .inr ⟨_, State.guestError_eq ..,
    State.lineLevel_congr (State.guestError_uarts ..) (State.guestError_gpio ..) (State.guestError_timer ..)⟩

/-- Of the register accesses only those of a RESERVED row log (41_bus.md R153). -/
theorem DeviceEffect.logsOneAtMost (e : DeviceEffect s i t) : s.LogsOneAtMost t := by
  cases e with
  | reserved => exact State.logsOneAtMost_guestError
  | _ => exact .inl rfl

theorem Effect.logsOneAtMost (e : Effect s i t) : s.LogsOneAtMost t := by
  cases e with
  | device _ _ hi hd | deviceRead c a port off hdec j hsel _ hj hdir hd | deviceWritten c a v port off hdec j hsel _ hj hdir hd =>
    exact hd.logsOneAtMost
  | guestError => exact State.logsOneAtMost_guestError
  | _ => exact .inl rfl

/-- Settles O45, by the cases of what an operation can do. -/
theorem guestErrorChangesOnlyTheLog : Obligations.GuestErrorChangesOnlyTheLog :=
  fun _ _ _ h => (effect_of_exec h).logsOneAtMost

end Sys2Proof.Machine

/-! The composition checks of 00_scope.md R9 and log entry 18 as a statement about the addresses each region spans, and the initial
state they decide (60_exceptions.md R404). -/

namespace Sys2Proof

open Machine

variable {cfg : Config}

/-! The spans of the regions. -/

/-- A region without its kind: its base and its size. -/
def Region.span (r : Region) : Nat × Nat := (r.base, r.size)

/-- The spans of the memory regions. -/
def Config.memories (cfg : Config) : List (Nat × Nat) :=
  [(cfg.romBase, cfg.romSize), (cfg.xipBase, cfg.xipSize), (cfg.sramBase, cfg.sramSize)]

/-- The spans of the device and stub windows. -/
def Config.windows (cfg : Config) : List (Nat × Nat) :=
  cfg.uartBase.map (fun base => (base, 0x1000)) ++ [(cfg.gpioBase, 0x1000), (cfg.timerBase, 0x1000)] ++ cfg.stubWindows

/-- The memory regions of the address map. -/
def Config.memoryRegions (cfg : Config) : List Region :=
  [⟨cfg.romBase, cfg.romSize, .mem .rom⟩, ⟨cfg.xipBase, cfg.xipSize, .mem .xip⟩, ⟨cfg.sramBase, cfg.sramSize, .mem .sram⟩]

/-- The device and stub regions of the address map. -/
def Config.windowRegions (cfg : Config) : List Region :=
  cfg.uartRegions ++ [⟨cfg.gpioBase, windowSize, .device .gpio⟩, ⟨cfg.timerBase, windowSize, .device .timer⟩] ++
    cfg.stubWindows.map fun bs => ⟨bs.1, bs.2, .stub⟩

theorem Config.regions_eq (cfg : Config) : cfg.regions = cfg.memoryRegions ++ cfg.windowRegions := by
  simp only [Config.regions, Config.memoryRegions, Config.windowRegions, List.append_assoc]

theorem Config.map_span_memoryRegions (cfg : Config) : cfg.memoryRegions.map Region.span = cfg.memories := rfl

/-- The UART windows are the bases in their order, each one window long. -/
theorem Config.map_span_uartRegions (cfg : Config) :
    cfg.uartRegions.map Region.span = cfg.uartBase.map fun base => (base, windowSize) := by
  have hfst : cfg.uartBase.zipIdx.map Prod.fst = cfg.uartBase := List.zipIdx_map_fst ..
  conv_rhs => rw [← hfst]
  simp only [Config.uartRegions, List.map_map]
  rfl

theorem Config.map_span_windowRegions (cfg : Config) : cfg.windowRegions.map Region.span = cfg.windows := by
  have hstub : (cfg.stubWindows.map fun bs => (⟨bs.1, bs.2, .stub⟩ : Region)).map Region.span = cfg.stubWindows := by
    rw [List.map_map]
    exact List.map_id _
  rw [Config.windowRegions, List.map_append, List.map_append, Config.map_span_uartRegions, hstub]
  rfl

theorem Config.map_span_regions (cfg : Config) : cfg.regions.map Region.span = cfg.memories ++ cfg.windows := by
  rw [Config.regions_eq, List.map_append, Config.map_span_memoryRegions, Config.map_span_windowRegions]

/-! The checks one by one. -/

/-- Check (1): no two regions share an address. -/
theorem Config.pairwiseDisjoint_iff_spans (rs : List Region) : Config.pairwiseDisjoint rs = true ↔
    (rs.map Region.span).Pairwise fun a b => a.1 + a.2 ≤ b.1 ∨ b.1 + b.2 ≤ a.1 := by
  simp only [Config.pairwiseDisjoint_iff, List.pairwise_map, Region.disjoint, Bool.or_eq_true, decide_eq_true_eq, Region.span]

/-- A window region is no memory. -/
theorem Config.kind_of_mem_windowRegions {r : Region} (hr : r ∈ cfg.windowRegions) (m : MemKind) : r.kind ≠ .mem m := by
  simp only [Config.windowRegions, Config.uartRegions, List.mem_append, List.mem_map, List.mem_cons, List.not_mem_nil, or_false] at hr
  rcases hr with (⟨_, -, rfl⟩ | rfl | rfl) | ⟨_, -, rfl⟩
  all_goals exact nofun

/-- Check (2) for a region that is no memory. -/
theorem Region.shapeOk_iff_of_window {r : Region} (hr : ∀ m : MemKind, r.kind ≠ .mem m) :
    r.shapeOk = true ↔ r.span.2 = 0x1000 ∧ r.span.1 % 0x1000 = 0 := by
  obtain ⟨base, size, kind⟩ := r
  cases kind with
  | mem m => exact absurd rfl (hr m)
  | device | stub => simp only [Region.shapeOk, Bool.and_eq_true, decide_eq_true_eq, Region.span]

/-- Check (2): every window is one window long and aligned. -/
theorem Config.shapeOk_windowRegions_iff (cfg : Config) :
    (∀ r ∈ cfg.windowRegions, r.shapeOk = true) ↔ ∀ w ∈ cfg.windows, w.2 = 0x1000 ∧ w.1 % 0x1000 = 0 := by
  rw [← Config.map_span_windowRegions, List.forall_mem_map]
  exact forall₂_congr fun _ hr => Region.shapeOk_iff_of_window (Config.kind_of_mem_windowRegions hr)

/-- Check (3): every memory is a positive number of words at a word's address. -/
theorem Config.shapeOk_memoryRegions_iff (cfg : Config) :
    (∀ r ∈ cfg.memoryRegions, r.shapeOk = true) ↔ ∀ r ∈ cfg.memories, 0 < r.2 ∧ r.2 % 4 = 0 ∧ r.1 % 4 = 0 := by
  simp only [Config.memoryRegions, Config.memories, List.forall_mem_cons, List.not_mem_nil, Region.shapeOk, Bool.and_eq_true,
    decide_eq_true_eq, false_imp_iff, implies_true, and_assoc]

/-- Check (4): no region ends above the address space. -/
theorem Region.inAddressSpace_iff_spans (rs : List Region) :
    (∀ r ∈ rs, r.inAddressSpace = true) ↔ ∀ r ∈ rs.map Region.span, r.1 + r.2 ≤ 2 ^ 32 := by
  simp only [List.forall_mem_map, Region.inAddressSpace, decide_eq_true_eq, Region.span]

/-! The checks together. -/

/-- The five checks of 00_scope.md R9 and the two of log entry 18, over the spans of the regions. -/
def Config.Passes (cfg : Config) : Prop :=
  (cfg.memories ++ cfg.windows).Pairwise (fun a b => a.1 + a.2 ≤ b.1 ∨ b.1 + b.2 ≤ a.1) ∧
  (∀ w ∈ cfg.windows, w.2 = 0x1000 ∧ w.1 % 0x1000 = 0) ∧
  (∀ r ∈ cfg.memories, 0 < r.2 ∧ r.2 % 4 = 0 ∧ r.1 % 4 = 0) ∧
  (∀ r ∈ cfg.memories ++ cfg.windows, r.1 + r.2 ≤ 2 ^ 32) ∧
  cfg.romImage.length = cfg.romSize ∧ cfg.xipImage.length = cfg.xipSize ∧
  1 ≤ cfg.uartCount ∧ cfg.uartWiring.length = cfg.uartCount

/-- The model's check accepts exactly the configurations that pass. -/
theorem Config.ok_iff_passes (cfg : Config) : cfg.ok = true ↔ cfg.Passes := by
  have hshape : (∀ r ∈ cfg.regions, r.shapeOk = true) ↔
      (∀ w ∈ cfg.windows, w.2 = 0x1000 ∧ w.1 % 0x1000 = 0) ∧ ∀ r ∈ cfg.memories, 0 < r.2 ∧ r.2 % 4 = 0 ∧ r.1 % 4 = 0 := by
    rw [Config.regions_eq, List.forall_mem_append, Config.shapeOk_memoryRegions_iff, Config.shapeOk_windowRegions_iff, and_comm]
  simp only [Config.ok, Bool.and_eq_true, Config.pairwiseDisjoint_iff_spans, List.all_eq_true, hshape,
    Region.inAddressSpace_iff_spans, Config.map_span_regions, Config.imagesOk, decide_eq_true_eq, Config.Passes, and_assoc]

end Sys2Proof

namespace Sys2Proof.Machine

variable {cfg : Config}

/-! The initial state. -/

theorem State.init_of_ok (hok : cfg.ok = true) (x : Time) (m : Memory) : State.init cfg x m = some (State.powerOn cfg x m) :=
  if_pos hok

theorem State.init_of_not_ok (hok : ¬ cfg.ok = true) (x : Time) (m : Memory) : State.init cfg x m = none := if_neg hok

theorem Config.ok_default : Config.default.ok = true := by decide

/-- Settles O52: the model's check is the checks spelled out, and the default configuration passes it. -/
theorem compositionErrorHasNoInitialState : Obligations.CompositionErrorHasNoInitialState :=
  ⟨fun cfg x m =>
      ⟨fun hfails => State.init_of_not_ok (mt cfg.ok_iff_passes.1 hfails) x m,
        fun hpasses => State.init_of_ok (cfg.ok_iff_passes.2 hpasses) x m⟩,
    fun _ => rfl, fun _ _ => rfl, State.init_of_ok Config.ok_default⟩

end Sys2Proof.Machine

/-! Power-on, machine reset, snapshot and restore (70_reset_and_hazards.md R440, R441, R450, R451). -/

namespace Sys2Proof.Machine

variable {s t : State} {snap : Snapshot}

/-! Power-on and reset. -/

/-- The invariant of a state right after power-on: every device is at its reset column (70_reset_and_hazards.md R441). -/
theorem State.inv_powerOn {cfg : Config} {m : Memory} (hok : cfg.ok = true) (hwf : m.wf) (hin : ∀ cell ∈ m, cell.1 < cfg.sramSize)
    (x : Time) : (State.powerOn cfg x m).Inv where
  composed := ⟨hok, List.length_replicate, List.length_replicate⟩
  sram := ⟨hwf, hin⟩
  uarts U hU := by
    rw [List.eq_of_mem_replicate hU]
    exact Uart.inRange_reset
  gpio := Gpio.inRange_reset
  timer := Timer.noneOverdue_reset x

/-- Settles O57: RAM that nothing has written is in canonical form, so the reset state is one of the power-on states. -/
theorem invariantHoldsAtPowerOn : Obligations.InvariantHoldsAtPowerOn :=
  ⟨⟨State.inv_powerOn Config.ok_default List.Pairwise.nil nofun 0, State.cursorsAgree_powerOn .default 0 []⟩,
    fun cfg x m hok hwf hin => ⟨State.inv_powerOn hok hwf hin x, State.cursorsAgree_powerOn cfg x m⟩⟩

/-- A timer just reset reads 0 (10_state.md R61). -/
theorem Timer.counter_reset (now : Time) : (Timer.reset now).counter now = 0 := BitVec.sub_self now

/-- No GPIO register has a pending bit in the reset column (10_state.md R50). -/
theorem Gpio.ints_reset (c : CoreId) (r : Fin 4) : Gpio.reset.ints c r = 0 := by
  have hintr : Gpio.reset.intr[r] = 0 := Vector.getElem_replicate ..
  rw [Gpio.ints, hintr]
  exact BitVec.zero_and

/-- Every line is 0 after a reset: no device has a pending interrupt bit in its reset column. -/
theorem State.lineLevel_resetDevices (s : State) (l : Line) : s.resetDevices.lineLevel l = false := by
  cases l with
  | uart u =>
    simp only [State.lineLevel, State.uartIrq, State.resetDevices_uarts]
    split
    · next U hU =>
      rw [List.eq_of_mem_replicate (List.mem_of_getElem? hU)]
      rfl
    · rfl
  | gpio c => simp only [State.lineLevel, State.gpioIrq, State.resetDevices_gpio, Gpio.ints_reset, bne_self_eq_false, Bool.or_self]
  | timer k =>
    have hintr : s.resetDevices.timer.intr.getLsbD k.val = false := BitVec.getLsbD_zero
    rw [State.lineLevel, State.timerIrq_eq, hintr, Bool.false_and]

/-- Settles O50: the reset columns are those of the model, the counter starts again at 0 and no line is asserted. -/
theorem machineResetRestoresTheResetColumns : Obligations.MachineResetRestoresTheResetColumns := fun s =>
  ⟨s.resetDevices.setReply .done, rfl, rfl, Timer.counter_reset s.clockNow, s.lineLevel_resetDevices⟩

/-- A reset of a state with empty logs is the power-on state of its clock and RAM (70_reset_and_hazards.md R441). -/
theorem State.resetDevices_eq_powerOn (hdiag : s.diag = []) (htx : s.txLog = List.replicate s.cfg.uartCount []) :
    s.resetDevices = { State.powerOn s.cfg s.clockNow s.sram with draws := s.draws, pending := s.pending, reply := s.reply } := by
  simp only [State.resetDevices, State.powerOn, hdiag, htx]

/-- Settles O51: a reset is a power-on of the clock and RAM it keeps. -/
theorem powerOnIsResetOfFreeInputs : Obligations.PowerOnIsResetOfFreeInputs := by
  intro s hdiag htx
  have hexec : exec .hostReset s = .next (s.resetDevices.setReply .done) := rfl
  rw [hexec, State.resetDevices_eq_powerOn hdiag htx]
  rfl

/-! Snapshot and restore. -/

/-- Settles O53: the reply is the record that `takeSnapshot` writes out, and no other field is updated. -/
theorem snapshotGivesTheDeviceFields : Obligations.SnapshotGivesTheDeviceFields := by
  intro s
  have hexec : exec .hostSnapshot s = .next (s.setReply (.snapshot s.takeSnapshot)) := rfl
  rw [hexec]
  rfl

theorem uartFits_iff {U : Uart} : uartFits U = true ↔ U.fifoLen ≤ 32 := decide_eq_true_iff

/-- The records a restore accepts (70_reset_and_hazards.md R451; log entry 12). -/
def State.Accepts (s : State) (snap : Snapshot) : Prop :=
  snap.uarts.length = s.cfg.uartCount ∧ (∀ U ∈ snap.uarts, U.fifoLen ≤ 32) ∧ snap.gpio.inRange

theorem State.accepts_iff : s.Accepts snap ↔ (snapshotFits snap && snap.uarts.length == s.cfg.uartCount) = true := by
  simp only [State.Accepts, Bool.and_eq_true, beq_iff_eq, snapshotFits_iff, uartFits_iff, and_comm]

theorem exec_hostRestore_of_accepts (h : s.Accepts snap) :
    exec (.hostRestore snap) s = .next ((s.restoreDevices snap).setReply .done) :=
  if_pos (State.accepts_iff.1 h)

theorem exec_hostRestore_of_not_accepts (h : ¬ s.Accepts snap) : exec (.hostRestore snap) s = .refused .snapshotMisfit :=
  if_neg (mt State.accepts_iff.2 h)

/-- Settles O54: an accepted record is copied with the counter made to read its own, and the alarms are evaluated at that counter. -/
theorem restoreRearmsOrFires : Obligations.RestoreRearmsOrFires := by
  intro snap s hn hlen hgpio
  refine ⟨(s.timer.restore s.clockNow snap).evalAlarms s.clockNow, exec_hostRestore_of_accepts ⟨hn, hlen, hgpio⟩,
    Timer.restore_counter .., rfl, rfl, rfl, rfl, rfl, rfl, ?_⟩
  exact Timer.firedAt_evalAlarms (B := s.timer.restore s.clockNow snap) rfl rfl rfl (Timer.restore_counter ..)

/-- Bits already within a mask are kept by it. -/
theorem and_eq_self_of_and_not {n : Nat} {x m : BitVec n} (h : x &&& ~~~m = 0) : x &&& m = x := by
  calc x &&& m = x &&& m ||| x &&& ~~~m := by rw [h]; exact BitVec.or_zero.symm
    _ = x := by rw [← BitVec.and_or_distrib_left, BitVec.or_not_self, BitVec.and_allOnes]

/-- A UART whose UARTCR holds only the bits it stores is restored as it was (10_state.md R37). -/
theorem Uart.restored_of_inRange {U : Uart} (h : U.inRange) : U.restored = U := by
  rw [Uart.restored, and_eq_self_of_and_not h.2]

/-- Alarm evaluation does nothing where no alarm is overdue (44_timer.md R310). -/
theorem Timer.evalAlarms_of_noneOverdue {T : Timer} {now : Time} (h : T.noneOverdue now) : T.evalAlarms now = T := by
  refine Timer.evalAlarms_of_dueMask (BitVec.eq_of_getLsbD_eq fun k hk => ?_)
  have hdue : T.due (T.counter now) ⟨k, hk⟩ = false := by
    cases harmed : T.armed.getLsbD k with
    | false => simp [Timer.due, harmed]
    | true => simpa [Timer.due, harmed] using h ⟨k, hk⟩ harmed
  exact (Timer.dueMask_getLsbD _ _ ⟨k, hk⟩).trans (hdue.trans BitVec.getLsbD_zero.symm)

/-- A snapshot of a timer with no alarm overdue leaves none overdue where it is restored: the counter is the same, whatever the
clock. -/
theorem Timer.noneOverdue_restore_takeSnapshot (h : s.timer.noneOverdue s.clockNow) (T : Timer) (now : Time) :
    (T.restore now s.takeSnapshot).noneOverdue now := by
  intro k hk
  rw [Timer.restore_counter]
  exact h k hk

/-- Settles O55: UARTCR holds only stored bits and no alarm is overdue, so neither the mask nor the alarm evaluation of the restore
changes the record. -/
theorem restoreUndoesSnapshot : Obligations.RestoreUndoesSnapshot := by
  intro s s₂ t hinv _ hexec
  obtain rfl := exec_hostRestore_next hexec
  have huarts : s.uarts.map Uart.restored = s.uarts :=
    (List.map_congr_left fun U hU => Uart.restored_of_inRange (hinv.uarts U hU)).trans (List.map_id _)
  have htimer : ((s₂.restoreDevices s.takeSnapshot).setReply .done).timer = s₂.timer.restore s₂.clockNow s.takeSnapshot :=
    Timer.evalAlarms_of_noneOverdue (Timer.noneOverdue_restore_takeSnapshot hinv.timer s₂.timer s₂.clockNow)
  rw [State.counter, htimer]
  exact ⟨huarts, rfl, Timer.restore_counter .., rfl, rfl, rfl, rfl, rfl, rfl, rfl, rfl, rfl, rfl⟩

end Sys2Proof.Machine

/-! The records of a restore: which numbers fit the widths of the state (70_reset_and_hazards.md R451). -/

namespace Sys2Proof

open Machine

/-- Exactly `n` numbers, each of at most `bits` bits. -/
def FitAll (n bits : Nat) (xs : List Nat) : Prop := xs.length = n ∧ ∀ x ∈ xs, x < 2 ^ bits

/-- The four words of a GPIO register group, of which the last has 24 bits (10_state.md R50). -/
def FitRegs (xs : List Nat) : Prop := FitAll 4 32 xs ∧ ∀ x ∈ xs[3]?, x < 2 ^ 24

/-- The fields of a UART's record fit the widths of 10_state.md R33. -/
def RawUart.Fits (U : RawUart) : Prop :=
  FitAll 32 8 U.fifoBuf ∧ U.fifoRd < 2 ^ 5 ∧ U.fifoWr < 2 ^ 5 ∧ U.fifoLen ≤ 32 ∧ U.cr < 2 ^ 16 ∧ U.lcrH < 2 ^ 8 ∧ U.ibrd < 2 ^ 16 ∧
    U.fbrd < 2 ^ 6 ∧ U.ilpr < 2 ^ 8 ∧ U.ifls < 2 ^ 6 ∧ U.imsc < 2 ^ 11 ∧ U.ris < 2 ^ 11 ∧ U.dmacr < 2 ^ 3

/-- The fields of a snapshot's record fit the widths of 10_state.md R33, R50 and R60. -/
def RawSnapshot.Fits (x : RawSnapshot) : Prop :=
  (∀ U ∈ x.uarts, U.Fits) ∧ FitAll 30 5 x.funcsel ∧ FitAll 30 1 x.level ∧ (∀ xs ∈ [x.gpioIntr, x.inte0, x.inte1], FitRegs xs) ∧
    x.paused < 2 ^ 1 ∧ FitAll 2 64 x.latch ∧ FitAll 4 64 x.target ∧ x.armed < 2 ^ 4 ∧ x.timerIntr < 2 ^ 4 ∧ x.timerInte < 2 ^ 4 ∧
    x.counter < 2 ^ 64

variable {n w : Nat} {xs : List Nat}

/-! A snapshot written out fits, but for what its types do not bound. -/

theorem fitAll_toNat (v : Vector (BitVec w) n) : FitAll n w (v.toList.map BitVec.toNat) :=
  ⟨by simp, List.forall_mem_map.2 fun x _ => x.isLt⟩

theorem fitAll_boolToNat (v : Vector Bool n) : FitAll n 1 (v.toList.map Bool.toNat) :=
  ⟨by simp, List.forall_mem_map.2 fun b _ => b.toNat_lt⟩

/-- A word within INTR_MASK[3] is one of 24 bits. -/
theorem and_not_intrMask_three_iff_lt {x : Word} : x &&& ~~~(intrMask 3) = 0 ↔ x.toNat < 2 ^ 24 := by
  rw [and_not_intrMask_three]
  constructor
  · intro h
    refine Nat.lt_pow_two_of_testBit _ fun b hb => ?_
    by_cases h32 : b < 32
    · exact h b hb h32
    · exact BitVec.getLsbD_of_ge x b (Nat.not_lt.1 h32)
  · intro h b hge _
    exact Nat.testBit_lt_two_pow (h.trans_le (Nat.pow_le_pow_right (by decide) hge))

theorem fitRegs_toNat_iff {v : Vector Word 4} : FitRegs (v.toList.map BitVec.toNat) ↔ v[3] &&& ~~~(intrMask 3) = 0 := by
  have hlast : (v.toList.map BitVec.toNat)[3]? = some v[3].toNat := by simp
  rw [FitRegs, hlast, and_iff_right (fitAll_toNat v), and_not_intrMask_three_iff_lt]
  simp only [Option.mem_some_iff, forall_eq']

theorem rawOfUart_fits_iff {U : Uart} : (rawOfUart U).Fits ↔ U.fifoLen ≤ 32 := by
  constructor
  · rintro ⟨-, -, -, hlen, -⟩
    exact hlen
  · intro hlen
    exact ⟨fitAll_toNat _, BitVec.isLt _, BitVec.isLt _, hlen, BitVec.isLt _, BitVec.isLt _, BitVec.isLt _, BitVec.isLt _,
      BitVec.isLt _, BitVec.isLt _, BitVec.isLt _, BitVec.isLt _, BitVec.isLt _⟩

theorem rawOfSnapshot_fits_iff {snap : Snapshot} : (rawOfSnapshot snap).Fits ↔ snapshotFits snap = true := by
  have huarts : (∀ U ∈ (rawOfSnapshot snap).uarts, U.Fits) ↔ ∀ U ∈ snap.uarts, uartFits U = true :=
    List.forall_mem_map.trans (forall₂_congr fun _ _ => rawOfUart_fits_iff.trans uartFits_iff.symm)
  have hgpio : (∀ xs ∈ [(rawOfSnapshot snap).gpioIntr, (rawOfSnapshot snap).inte0, (rawOfSnapshot snap).inte1], FitRegs xs) ↔
      snap.gpio.inRange := by
    simp only [rawOfSnapshot, List.forall_mem_cons, List.not_mem_nil, false_imp_iff, implies_true, and_true, fitRegs_toNat_iff]
  rw [snapshotFits_iff, ← huarts, ← hgpio]
  constructor
  · rintro ⟨hU, -, -, hregs, -⟩
    exact ⟨hU, hregs⟩
  · rintro ⟨hU, hregs⟩
    exact ⟨hU, fitAll_toNat _, fitAll_boolToNat _, hregs, snap.paused.toNat_lt, fitAll_toNat _, fitAll_toNat _, BitVec.isLt _,
      BitVec.isLt _, BitVec.isLt _, BitVec.isLt _⟩

/-! A record that fits is a snapshot written out. -/

theorem exists_toNat {x : Nat} (h : x < 2 ^ w) : ∃ b : BitVec w, b.toNat = x := ⟨BitVec.ofNatLT x h, BitVec.toNat_ofNatLT ..⟩

theorem exists_boolToNat {x : Nat} (h : x < 2 ^ 1) : ∃ b : Bool, b.toNat = x := by
  rcases (by omega : x = 0 ∨ x = 1) with rfl | rfl
  · exact ⟨false, rfl⟩
  · exact ⟨true, rfl⟩

theorem exists_map_eq {α β : Type} {f : α → β} {ys : List β} (h : ∀ y ∈ ys, ∃ a, f a = y) : ∃ as : List α, as.map f = ys := by
  rw [← Set.mem_range, Set.range_list_map]
  exact h

theorem exists_vector_map_eq {α : Type} {f : α → Nat} (hn : xs.length = n) (h : ∀ x ∈ xs, ∃ a, f a = x) :
    ∃ v : Vector α n, v.toList.map f = xs := by
  obtain ⟨as, rfl⟩ := exists_map_eq h
  rw [List.length_map] at hn
  exact ⟨⟨as.toArray, hn⟩, rfl⟩

theorem FitAll.exists_words (h : FitAll n w xs) : ∃ v : Vector (BitVec w) n, v.toList.map BitVec.toNat = xs :=
  exists_vector_map_eq h.1 fun x hx => exists_toNat (h.2 x hx)

theorem FitAll.exists_bools (h : FitAll n 1 xs) : ∃ v : Vector Bool n, v.toList.map Bool.toNat = xs :=
  exists_vector_map_eq h.1 fun x hx => exists_boolToNat (h.2 x hx)

theorem RawUart.Fits.exists_uart {x : RawUart} (h : x.Fits) : ∃ U, rawOfUart U = x := by
  obtain ⟨fifoBuf, fifoRd, fifoWr, fifoLen, cr, lcrH, ibrd, fbrd, ilpr, ifls, imsc, ris, dmacr⟩ := x
  obtain ⟨hbuf, hrd, hwr, -, hcr, hlcrH, hibrd, hfbrd, hilpr, hifls, himsc, hris, hdmacr⟩ := h
  obtain ⟨fifoBuf, rfl⟩ := hbuf.exists_words
  obtain ⟨fifoRd, rfl⟩ := exists_toNat hrd
  obtain ⟨fifoWr, rfl⟩ := exists_toNat hwr
  obtain ⟨cr, rfl⟩ := exists_toNat hcr
  obtain ⟨lcrH, rfl⟩ := exists_toNat hlcrH
  obtain ⟨ibrd, rfl⟩ := exists_toNat hibrd
  obtain ⟨fbrd, rfl⟩ := exists_toNat hfbrd
  obtain ⟨ilpr, rfl⟩ := exists_toNat hilpr
  obtain ⟨ifls, rfl⟩ := exists_toNat hifls
  obtain ⟨imsc, rfl⟩ := exists_toNat himsc
  obtain ⟨ris, rfl⟩ := exists_toNat hris
  obtain ⟨dmacr, rfl⟩ := exists_toNat hdmacr
  exact ⟨⟨fifoBuf, fifoRd, fifoWr, fifoLen, cr, lcrH, ibrd, fbrd, ilpr, ifls, imsc, ris, dmacr⟩, rfl⟩

theorem RawSnapshot.Fits.exists_snapshot {x : RawSnapshot} (h : x.Fits) : ∃ snap, rawOfSnapshot snap = x := by
  obtain ⟨uarts, funcsel, level, gpioIntr, inte0, inte1, paused, latch, target, armed, timerIntr, timerInte, counter⟩ := x
  obtain ⟨huarts, hfuncsel, hlevel, hregs, hpaused, hlatch, htarget, harmed, hintr, hinte, hcounter⟩ := h
  simp only [List.forall_mem_cons] at hregs
  obtain ⟨⟨hgpioIntr, -⟩, ⟨hinte0, -⟩, ⟨hinte1, -⟩, -⟩ := hregs
  obtain ⟨uarts, rfl⟩ := exists_map_eq fun U hU => (huarts U hU).exists_uart
  obtain ⟨funcsel, rfl⟩ := hfuncsel.exists_words
  obtain ⟨level, rfl⟩ := hlevel.exists_bools
  obtain ⟨gpioIntr, rfl⟩ := hgpioIntr.exists_words
  obtain ⟨inte0, rfl⟩ := hinte0.exists_words
  obtain ⟨inte1, rfl⟩ := hinte1.exists_words
  obtain ⟨paused, rfl⟩ := exists_boolToNat hpaused
  obtain ⟨latch, rfl⟩ := hlatch.exists_words
  obtain ⟨target, rfl⟩ := htarget.exists_words
  obtain ⟨armed, rfl⟩ := exists_toNat harmed
  obtain ⟨intr, rfl⟩ := exists_toNat hintr
  obtain ⟨inte, rfl⟩ := exists_toNat hinte
  obtain ⟨counter, rfl⟩ := exists_toNat hcounter
  exact ⟨⟨uarts, ⟨funcsel, level, gpioIntr, inte0, inte1⟩, paused, latch, target, armed, intr, inte, counter⟩, rfl⟩

/-! The decoder. -/

/-- A record that fits is read as the snapshot it writes out. -/
theorem RawSnapshot.Fits.fitSnapshot {x : RawSnapshot} (h : x.Fits) : ∃ snap, fitSnapshot x = some snap ∧ rawOfSnapshot snap = x := by
  obtain ⟨snap, rfl⟩ := h.exists_snapshot
  exact ⟨snap, fitSnapshot_eq_some.2 ⟨rfl, rawOfSnapshot_fits_iff.1 h⟩, rfl⟩

/-- A record that does not fit is not read. -/
theorem fitSnapshot_of_misfit {x : RawSnapshot} (h : ¬ x.Fits) : fitSnapshot x = none := by
  rw [Option.eq_none_iff_forall_ne_some]
  intro snap hsnap
  obtain ⟨rfl, hfits⟩ := fitSnapshot_eq_some.1 hsnap
  exact h (rawOfSnapshot_fits_iff.2 hfits)

theorem decodeEvt_hostRestore_misfit {e : Evt} (h : e.code = 0x7) (hs : fitSnapshot e.snap = none) :
    decodeEvt e = .error .snapshotMisfit := by
  simp only [decodeEvt, h, hs]; rfl

end Sys2Proof

namespace Sys2Proof.Machine

theorem State.not_accepts_of_misfit {s : State} {snap : Snapshot}
    (h : snap.uarts.length ≠ s.cfg.uartCount ∨ (∃ U ∈ snap.uarts, 32 < U.fifoLen) ∨ ¬ snap.gpio.inRange) : ¬ s.Accepts snap := by
  rintro ⟨hn, hlen, hgpio⟩
  rcases h with hne | ⟨U, hU, hlt⟩ | hout
  · exact hne hn
  · exact absurd (hlen U hU) (Nat.not_le.2 hlt)
  · exact hout hgpio

/-- Settles O56: the decoder reads exactly the records that fit, and a restore accepts exactly the snapshots that do. -/
theorem misfitSnapshotIsRefused : Obligations.MisfitSnapshotIsRefused := by
  refine ⟨fun e hcode => ⟨fun hmisfit => ?_, fun hfits => ?_⟩, fun _ _ h =>
    exec_hostRestore_of_not_accepts (State.not_accepts_of_misfit h)⟩
  · exact decodeEvt_hostRestore_misfit hcode (fitSnapshot_of_misfit hmisfit)
  · obtain ⟨snap, hsnap, hraw⟩ := RawSnapshot.Fits.fitSnapshot hfits
    exact ⟨snap, decodeEvt_hostRestore hcode hsnap, hraw⟩

end Sys2Proof.Machine
